-- ==== Sys2Proof/Word.lean ====
section
/-! DEFINITION. The word types of gChip8 CORE (spec/00_scope.md R5, R8) and nothing else. -/

namespace Sys2Proof

/-- A register, a timer, a memory byte or an immediate `kk` (XLEN = 8, R5). -/
abbrev Byte := BitVec 8

/-- The program counter, the address register, a stack entry, an instruction word, the key bitmap
(PCW = IW = ILEN = 16, R5). -/
abbrev Word := BitVec 16

/-- The 12-bit address immediate `nnn` (R8). -/
abbrev Addr := BitVec 12

/-- The 4-bit row count `n` of `DRW` (R8). -/
abbrev Nibble := BitVec 4

/-- A register number: always a 4-bit instruction field, so always 0..15 (spec/10_state.md R21). -/
abbrev Reg := BitVec 4

/-- `VF` = `V[15]`, the flag register (spec/10_state.md R22). -/
abbrev VF : Reg := 0xF#4

end Sys2Proof
end

