-- ==== Sys2Proof/Machine/Flags.lean ====
section
/-! DEFINITION. The flag values (spec/10_state.md R42, spec/42_alu.md R177 to R183): always 0 or 1. -/

namespace Sys2Proof.Machine

/-- A flag byte: 1 or 0 and nothing else (spec/10_state.md R22). -/
def flagByte (p : Bool) : Byte := if p then 1 else 0

/-- ADD: carry, 1 if the unbounded sum exceeds 255 (R177). -/
def carryFlag (a b : Byte) : Byte := flagByte (decide (a.toNat + b.toNat > 255))

/-- SUB a - b and SUBN: NOT borrow, 1 if a >= b (R178, R180; equality D42). -/
def notBorrowFlag (a b : Byte) : Byte := flagByte (decide (a.toNat ≥ b.toNat))

/-- SHR: bit 0 before the shift (R179). -/
def lowBitFlag (a : Byte) : Byte := flagByte (a.getLsbD 0)

/-- SHL: bit 7 before the shift (R181). -/
def highBitFlag (a : Byte) : Byte := flagByte (a.getLsbD 7)

end Sys2Proof.Machine
end

