-- ==== Sys2Proof/Syntax.lean ====
section
/-! DEFINITION. The instructions: one constructor per row of spec/opcode_table.json, in the order of
spec/30_encoding.md R105, with the operand fields the row's pattern names (R91). -/

namespace Sys2Proof

/-- The 34 instructions (R105). The field types hold exactly the in-range values (R104): every
register number, immediate and row count is legal in every instruction. -/
inductive Instr where
  | cls                          -- 00E0  CLS
  | ret                          -- 00EE  RET
  | jp (nnn : Addr)              -- 1nnn  JP nnn
  | call (nnn : Addr)            -- 2nnn  CALL nnn
  | seImm (x : Reg) (kk : Byte)  -- 3xkk  SE Vx, kk
  | sneImm (x : Reg) (kk : Byte) -- 4xkk  SNE Vx, kk
  | seReg (x y : Reg)            -- 5xy0  SE Vx, Vy
  | ldImm (x : Reg) (kk : Byte)  -- 6xkk  LD Vx, kk
  | addImm (x : Reg) (kk : Byte) -- 7xkk  ADD Vx, kk
  | ldReg (x y : Reg)            -- 8xy0  LD Vx, Vy
  | orReg (x y : Reg)            -- 8xy1  OR Vx, Vy
  | andReg (x y : Reg)           -- 8xy2  AND Vx, Vy
  | xorReg (x y : Reg)           -- 8xy3  XOR Vx, Vy
  | addReg (x y : Reg)           -- 8xy4  ADD Vx, Vy
  | subReg (x y : Reg)           -- 8xy5  SUB Vx, Vy
  | shr (x y : Reg)              -- 8xy6  SHR Vx (and Vy)
  | subnReg (x y : Reg)          -- 8xy7  SUBN Vx, Vy
  | shl (x y : Reg)              -- 8xyE  SHL Vx (and Vy)
  | sneReg (x y : Reg)           -- 9xy0  SNE Vx, Vy
  | ldI (nnn : Addr)             -- Annn  LD I, nnn
  | jpV0 (nnn : Addr)            -- Bnnn  JP V0, nnn
  | rnd (x : Reg) (kk : Byte)    -- Cxkk  RND Vx, kk
  | drw (x y : Reg) (n : Nibble) -- Dxyn  DRW Vx, Vy, n
  | skp (x : Reg)                -- Ex9E  SKP Vx
  | sknp (x : Reg)               -- ExA1  SKNP Vx
  | ldVxDT (x : Reg)             -- Fx07  LD Vx, DT
  | ldVxK (x : Reg)              -- Fx0A  LD Vx, K
  | ldDT (x : Reg)               -- Fx15  LD DT, Vx
  | ldST (x : Reg)               -- Fx18  LD ST, Vx
  | addI (x : Reg)               -- Fx1E  ADD I, Vx
  | ldF (x : Reg)                -- Fx29  LD F, Vx
  | ldB (x : Reg)                -- Fx33  LD B, Vx
  | ldMemVx (x : Reg)            -- Fx55  LD [I], Vx
  | ldVxMem (x : Reg)            -- Fx65  LD Vx, [I]
  deriving DecidableEq, Repr, Inhabited

end Sys2Proof
end

