-- ==== Sys2Proof/WellFormed.lean ====
section
/-! DEFINITION. The operand ranges an assembler must check (spec/30_encoding.md R104), on numbers
that are not yet typed fields, and their meaning for an instruction. -/

namespace Sys2Proof

/-- A register number is 0..15 (R104). -/
def regInRange (k : Nat) : Bool := k < 16

/-- `kk` is 0..0xFF (R104). -/
def byteInRange (k : Nat) : Bool := k < 256

/-- `nnn` is 0..0xFFF (R104). -/
def addrInRange (k : Nat) : Bool := k < 4096

/-- `n` is 0..0xF (R104). -/
def rowsInRange (k : Nat) : Bool := k < 16

/-- The operands of an instruction are in range (R104). The typed fields of `Instr` hold nothing
else, and "all combinations of in-range fields are legal words", so this holds of every instruction:
the checks above are what a number must pass before it can become a field. -/
def Instr.WellFormed : Instr → Bool
  | .cls | .ret => true
  | .jp nnn | .call nnn | .ldI nnn | .jpV0 nnn => addrInRange nnn.toNat
  | .seImm x kk | .sneImm x kk | .ldImm x kk | .addImm x kk | .rnd x kk =>
    regInRange x.toNat && byteInRange kk.toNat
  | .seReg x y | .sneReg x y | .ldReg x y | .orReg x y | .andReg x y | .xorReg x y | .addReg x y
  | .subReg x y | .shr x y | .subnReg x y | .shl x y => regInRange x.toNat && regInRange y.toNat
  | .drw x y n => regInRange x.toNat && regInRange y.toNat && rowsInRange n.toNat
  | .skp x | .sknp x | .ldVxDT x | .ldVxK x | .ldDT x | .ldST x | .addI x | .ldF x | .ldB x
  | .ldMemVx x | .ldVxMem x => regInRange x.toNat

/-- An assembler's register operand: refused out of range (R104). -/
def asmReg (k : Nat) : Option Reg := if regInRange k then some (BitVec.ofNat 4 k) else none

/-- An assembler's byte operand: refused out of range (R104). -/
def asmByte (k : Nat) : Option Byte := if byteInRange k then some (BitVec.ofNat 8 k) else none

/-- An assembler's address operand: refused out of range (R104). -/
def asmAddr (k : Nat) : Option Addr := if addrInRange k then some (BitVec.ofNat 12 k) else none

/-- An assembler's row count: refused out of range (R104). -/
def asmRows (k : Nat) : Option Nibble := if rowsInRange k then some (BitVec.ofNat 4 k) else none

end Sys2Proof
end

