-- ==== Sys2Proof/Decode.lean ====
section
/-! DEFINITION. Decoding and encoding (spec/30_encoding.md): the decoder as the tree of R106, the
encoder from the formats of R92, and the opcode table of R105 as rows of mask and match bits. Also the
assembler spelling of R102. -/

namespace Sys2Proof

/-! ### Fields of the word (R91) -/

/-- `op` = bits 15:12. -/
def opField (w : Word) : Nibble := w.extractLsb' 12 4

/-- `x` = bits 11:8. -/
def xField (w : Word) : Reg := w.extractLsb' 8 4

/-- `y` = bits 7:4. -/
def yField (w : Word) : Reg := w.extractLsb' 4 4

/-- `n` = bits 3:0. -/
def nField (w : Word) : Nibble := w.extractLsb' 0 4

/-- `kk` = bits 7:0. -/
def kkField (w : Word) : Byte := w.extractLsb' 0 8

/-- `nnn` = bits 11:0. -/
def nnnField (w : Word) : Addr := w.extractLsb' 0 12

/-! ### The decoder (R106) -/

/-- Family 8 is selected by n (R96). -/
def decodeFamily8 (x y : Reg) (n : Nibble) : Option Instr :=
  match n.toNat with
  | 0x0 => some (.ldReg x y)
  | 0x1 => some (.orReg x y)
  | 0x2 => some (.andReg x y)
  | 0x3 => some (.xorReg x y)
  | 0x4 => some (.addReg x y)
  | 0x5 => some (.subReg x y)
  | 0x6 => some (.shr x y)
  | 0x7 => some (.subnReg x y)
  | 0xE => some (.shl x y)
  | _ => none

/-- Family E is selected by kk (R97). -/
def decodeFamilyE (x : Reg) (kk : Byte) : Option Instr :=
  match kk.toNat with
  | 0x9E => some (.skp x)
  | 0xA1 => some (.sknp x)
  | _ => none

/-- Family F is selected by kk (R98). -/
def decodeFamilyF (x : Reg) (kk : Byte) : Option Instr :=
  match kk.toNat with
  | 0x07 => some (.ldVxDT x)
  | 0x0A => some (.ldVxK x)
  | 0x15 => some (.ldDT x)
  | 0x18 => some (.ldST x)
  | 0x1E => some (.addI x)
  | 0x29 => some (.ldF x)
  | 0x33 => some (.ldB x)
  | 0x55 => some (.ldMemVx x)
  | 0x65 => some (.ldVxMem x)
  | _ => none

/-- The instruction of a word, or `none` for an illegal word (R94 to R100, R106). Families 5 and 9
need n = 0 (R99, the spec's decision D9). -/
def decode (w : Word) : Option Instr :=
  match (opField w).toNat with
  | 0x0 => if w = 0x00E0#16 then some .cls else if w = 0x00EE#16 then some .ret else none
  | 0x1 => some (.jp (nnnField w))
  | 0x2 => some (.call (nnnField w))
  | 0x3 => some (.seImm (xField w) (kkField w))
  | 0x4 => some (.sneImm (xField w) (kkField w))
  | 0x5 => if nField w = 0#4 then some (.seReg (xField w) (yField w)) else none
  | 0x6 => some (.ldImm (xField w) (kkField w))
  | 0x7 => some (.addImm (xField w) (kkField w))
  | 0x8 => decodeFamily8 (xField w) (yField w) (nField w)
  | 0x9 => if nField w = 0#4 then some (.sneReg (xField w) (yField w)) else none
  | 0xA => some (.ldI (nnnField w))
  | 0xB => some (.jpV0 (nnnField w))
  | 0xC => some (.rnd (xField w) (kkField w))
  | 0xD => some (.drw (xField w) (yField w) (nField w))
  | 0xE => decodeFamilyE (xField w) (kkField w)
  | _ => decodeFamilyF (xField w) (kkField w)

/-- The word of two bytes: the byte at the lower address holds bits 15:8 (spec/20_memory.md R62). -/
def wordOfBytes (hi lo : Byte) : Word := hi ++ lo

/-- The two bytes of a word in memory order (spec/20_memory.md R62). -/
def bytesOfWord (w : Word) : List Byte := [w.extractLsb' 8 8, w.extractLsb' 0 8]

/-- Why bytes do not decode. -/
inductive DecodeError where
  /-- Fewer than the 2 bytes of an instruction (R90). -/
  | truncated
  /-- A word that matches no row of R105 (R100). -/
  | illegalInstruction (word : Word)
  deriving DecidableEq, Repr

/-- Decoding of any bytes: the instruction and the bytes after it, or the reason by name. Every
instruction is 2 bytes (R90). -/
def decodeBytes : List Byte → Except DecodeError (Instr × List Byte)
  | hi :: lo :: rest =>
    match decode (wordOfBytes hi lo) with
    | some i => .ok (i, rest)
    | none => .error (.illegalInstruction (wordOfBytes hi lo))
  | _ => .error .truncated

/-! ### The encoder (R92, R105) -/

/-- Format NNN. -/
def wordNNN (op : Nibble) (nnn : Addr) : Word := op ++ nnn

/-- Formats XKK and XSUB. -/
def wordXKK (op : Nibble) (x : Reg) (kk : Byte) : Word := (op ++ x) ++ kk

/-- Formats XYN and XYH. -/
def wordXYN (op : Nibble) (x y : Reg) (n : Nibble) : Word := (op ++ x) ++ (y ++ n)

/-- The word of an instruction (R105, column "word"). -/
def encode : Instr → Word
  | .cls => 0x00E0
  | .ret => 0x00EE
  | .jp nnn => wordNNN 0x1 nnn
  | .call nnn => wordNNN 0x2 nnn
  | .seImm x kk => wordXKK 0x3 x kk
  | .sneImm x kk => wordXKK 0x4 x kk
  | .seReg x y => wordXYN 0x5 x y 0x0
  | .ldImm x kk => wordXKK 0x6 x kk
  | .addImm x kk => wordXKK 0x7 x kk
  | .ldReg x y => wordXYN 0x8 x y 0x0
  | .orReg x y => wordXYN 0x8 x y 0x1
  | .andReg x y => wordXYN 0x8 x y 0x2
  | .xorReg x y => wordXYN 0x8 x y 0x3
  | .addReg x y => wordXYN 0x8 x y 0x4
  | .subReg x y => wordXYN 0x8 x y 0x5
  | .shr x y => wordXYN 0x8 x y 0x6
  | .subnReg x y => wordXYN 0x8 x y 0x7
  | .shl x y => wordXYN 0x8 x y 0xE
  | .sneReg x y => wordXYN 0x9 x y 0x0
  | .ldI nnn => wordNNN 0xA nnn
  | .jpV0 nnn => wordNNN 0xB nnn
  | .rnd x kk => wordXKK 0xC x kk
  | .drw x y n => wordXYN 0xD x y n
  | .skp x => wordXKK 0xE x 0x9E
  | .sknp x => wordXKK 0xE x 0xA1
  | .ldVxDT x => wordXKK 0xF x 0x07
  | .ldVxK x => wordXKK 0xF x 0x0A
  | .ldDT x => wordXKK 0xF x 0x15
  | .ldST x => wordXKK 0xF x 0x18
  | .addI x => wordXKK 0xF x 0x1E
  | .ldF x => wordXKK 0xF x 0x29
  | .ldB x => wordXKK 0xF x 0x33
  | .ldMemVx x => wordXKK 0xF x 0x55
  | .ldVxMem x => wordXKK 0xF x 0x65

/-- The bytes of an instruction in memory order (R90, spec/20_memory.md R62). -/
def encodeBytes (i : Instr) : List Byte := bytesOfWord (encode i)

/-! ### The opcode table (R105) -/

/-- A row of R105: a word w is the row's instruction iff `w & mask = bits`, with the operands its
fields hold. -/
structure OpRow where
  mask : Word
  bits : Word
  instr : Word → Instr

/-- A word matches a row (R105). -/
def OpRow.matchesWord (r : OpRow) (w : Word) : Bool := w &&& r.mask == r.bits

/-- Rows 1 to 18 of R105. -/
def opcodeTableLow : List OpRow := [
  { mask := 0xFFFF, bits := 0x00E0, instr := fun _ => .cls },
  { mask := 0xFFFF, bits := 0x00EE, instr := fun _ => .ret },
  { mask := 0xF000, bits := 0x1000, instr := fun w => .jp (nnnField w) },
  { mask := 0xF000, bits := 0x2000, instr := fun w => .call (nnnField w) },
  { mask := 0xF000, bits := 0x3000, instr := fun w => .seImm (xField w) (kkField w) },
  { mask := 0xF000, bits := 0x4000, instr := fun w => .sneImm (xField w) (kkField w) },
  { mask := 0xF00F, bits := 0x5000, instr := fun w => .seReg (xField w) (yField w) },
  { mask := 0xF000, bits := 0x6000, instr := fun w => .ldImm (xField w) (kkField w) },
  { mask := 0xF000, bits := 0x7000, instr := fun w => .addImm (xField w) (kkField w) },
  { mask := 0xF00F, bits := 0x8000, instr := fun w => .ldReg (xField w) (yField w) },
  { mask := 0xF00F, bits := 0x8001, instr := fun w => .orReg (xField w) (yField w) },
  { mask := 0xF00F, bits := 0x8002, instr := fun w => .andReg (xField w) (yField w) },
  { mask := 0xF00F, bits := 0x8003, instr := fun w => .xorReg (xField w) (yField w) },
  { mask := 0xF00F, bits := 0x8004, instr := fun w => .addReg (xField w) (yField w) },
  { mask := 0xF00F, bits := 0x8005, instr := fun w => .subReg (xField w) (yField w) },
  { mask := 0xF00F, bits := 0x8006, instr := fun w => .shr (xField w) (yField w) },
  { mask := 0xF00F, bits := 0x8007, instr := fun w => .subnReg (xField w) (yField w) },
  { mask := 0xF00F, bits := 0x800E, instr := fun w => .shl (xField w) (yField w) }]

/-- Rows 19 to 34 of R105. -/
def opcodeTableHigh : List OpRow := [
  { mask := 0xF00F, bits := 0x9000, instr := fun w => .sneReg (xField w) (yField w) },
  { mask := 0xF000, bits := 0xA000, instr := fun w => .ldI (nnnField w) },
  { mask := 0xF000, bits := 0xB000, instr := fun w => .jpV0 (nnnField w) },
  { mask := 0xF000, bits := 0xC000, instr := fun w => .rnd (xField w) (kkField w) },
  { mask := 0xF000, bits := 0xD000, instr := fun w => .drw (xField w) (yField w) (nField w) },
  { mask := 0xF0FF, bits := 0xE09E, instr := fun w => .skp (xField w) },
  { mask := 0xF0FF, bits := 0xE0A1, instr := fun w => .sknp (xField w) },
  { mask := 0xF0FF, bits := 0xF007, instr := fun w => .ldVxDT (xField w) },
  { mask := 0xF0FF, bits := 0xF00A, instr := fun w => .ldVxK (xField w) },
  { mask := 0xF0FF, bits := 0xF015, instr := fun w => .ldDT (xField w) },
  { mask := 0xF0FF, bits := 0xF018, instr := fun w => .ldST (xField w) },
  { mask := 0xF0FF, bits := 0xF01E, instr := fun w => .addI (xField w) },
  { mask := 0xF0FF, bits := 0xF029, instr := fun w => .ldF (xField w) },
  { mask := 0xF0FF, bits := 0xF033, instr := fun w => .ldB (xField w) },
  { mask := 0xF0FF, bits := 0xF055, instr := fun w => .ldMemVx (xField w) },
  { mask := 0xF0FF, bits := 0xF065, instr := fun w => .ldVxMem (xField w) }]

/-- The 34 rows of R105, in its order. -/
def opcodeTable : List OpRow := opcodeTableLow ++ opcodeTableHigh

/-! ### Assembler spelling (R102) -/

/-- A hexadecimal digit. -/
def hexDigit (d : Nat) : String :=
  (["0", "1", "2", "3", "4", "5", "6", "7", "8", "9", "A", "B", "C", "D", "E", "F"][d]?).getD "?"

/-- `V0`..`V9`, `VA`..`VF` (R102). -/
def asmNameOfReg (x : Reg) : String := "V" ++ hexDigit x.toNat

/-- A number in hexadecimal with `0x` and the given count of digits (R102). -/
def asmHex (digits k : Nat) : String :=
  (List.range digits).foldl (fun acc j => acc ++ hexDigit (k / 16 ^ (digits - 1 - j) % 16)) "0x"

/-- The assembler line of an instruction, destination first (R102, the spec's decision D4: labels
only, no behaviour). -/
def asmLine : Instr → String
  | .cls => "CLS"
  | .ret => "RET"
  | .jp nnn => "JP " ++ asmHex 3 nnn.toNat
  | .call nnn => "CALL " ++ asmHex 3 nnn.toNat
  | .seImm x kk => "SE " ++ asmNameOfReg x ++ ", " ++ asmHex 2 kk.toNat
  | .sneImm x kk => "SNE " ++ asmNameOfReg x ++ ", " ++ asmHex 2 kk.toNat
  | .seReg x y => "SE " ++ asmNameOfReg x ++ ", " ++ asmNameOfReg y
  | .ldImm x kk => "LD " ++ asmNameOfReg x ++ ", " ++ asmHex 2 kk.toNat
  | .addImm x kk => "ADD " ++ asmNameOfReg x ++ ", " ++ asmHex 2 kk.toNat
  | .ldReg x y => "LD " ++ asmNameOfReg x ++ ", " ++ asmNameOfReg y
  | .orReg x y => "OR " ++ asmNameOfReg x ++ ", " ++ asmNameOfReg y
  | .andReg x y => "AND " ++ asmNameOfReg x ++ ", " ++ asmNameOfReg y
  | .xorReg x y => "XOR " ++ asmNameOfReg x ++ ", " ++ asmNameOfReg y
  | .addReg x y => "ADD " ++ asmNameOfReg x ++ ", " ++ asmNameOfReg y
  | .subReg x y => "SUB " ++ asmNameOfReg x ++ ", " ++ asmNameOfReg y
  | .shr x y => "SHR " ++ asmNameOfReg x ++ ", " ++ asmNameOfReg y
  | .subnReg x y => "SUBN " ++ asmNameOfReg x ++ ", " ++ asmNameOfReg y
  | .shl x y => "SHL " ++ asmNameOfReg x ++ ", " ++ asmNameOfReg y
  | .sneReg x y => "SNE " ++ asmNameOfReg x ++ ", " ++ asmNameOfReg y
  | .ldI nnn => "LD I, " ++ asmHex 3 nnn.toNat
  | .jpV0 nnn => "JP V0, " ++ asmHex 3 nnn.toNat
  | .rnd x kk => "RND " ++ asmNameOfReg x ++ ", " ++ asmHex 2 kk.toNat
  | .drw x y n => "DRW " ++ asmNameOfReg x ++ ", " ++ asmNameOfReg y ++ ", " ++ asmHex 1 n.toNat
  | .skp x => "SKP " ++ asmNameOfReg x
  | .sknp x => "SKNP " ++ asmNameOfReg x
  | .ldVxDT x => "LD " ++ asmNameOfReg x ++ ", DT"
  | .ldVxK x => "LD " ++ asmNameOfReg x ++ ", K"
  | .ldDT x => "LD DT, " ++ asmNameOfReg x
  | .ldST x => "LD ST, " ++ asmNameOfReg x
  | .addI x => "ADD I, " ++ asmNameOfReg x
  | .ldF x => "LD F, " ++ asmNameOfReg x
  | .ldB x => "LD B, " ++ asmNameOfReg x
  | .ldMemVx x => "LD [I], " ++ asmNameOfReg x
  | .ldVxMem x => "LD " ++ asmNameOfReg x ++ ", [I]"

/-! ### The host's reading of the opcode table -/

/-- The instruction the decoder reads from an instruction whose bits are `w`: the low `nbits` bits of
`w`, every bit above them 0, laid out as the two bytes the memory holds and given to the decoder. -/
def decodeTableWord (nbits w : Nat) : Option Instr :=
  match decodeBytes (bytesOfWord (BitVec.ofNat 16 (w % 2 ^ nbits))) with
  | .ok (i, _) => some i
  | .error _ => none

end Sys2Proof
end

