-- ==== Sys2Proof/Config.lean ====
section
/-! DEFINITION. What an implementation fixes and the free values: the parameters of spec/00_scope.md
R6, the events of the boundary (spec/40_execution_cycle.md R121) and the two opaque constants behind
everything the spec leaves to the host or unspecified. -/

namespace Sys2Proof

/-- Parameter `SHIFT_SRC`: the register `SHR` and `SHL` shift (R6, D6). -/
inductive ShiftSrc where
  | vx   -- V[x], shifted in place
  | vy   -- V[y]
  deriving DecidableEq, Repr, Inhabited

/-- The parameters of the machine that the spec leaves open and that no step changes (R6). They are
carried in State, so that a statement about every state covers every value (log 4, log 5). -/
structure Params where
  /-- `SHIFT_SRC` (D6). -/
  shiftSrc : ShiftSrc
  /-- `FONT`: 80 bytes, glyph g at bytes 5g to 5g + 4 (spec/20_memory.md R68, D30). -/
  font : Vector Byte 80
  deriving DecidableEq, Repr

/-- The events of the boundary, with the data each carries (spec/40_execution_cycle.md R121). -/
inductive Event where
  /-- RESET. -/
  | reset
  /-- LOAD of a byte sequence. -/
  | load (bytes : List Byte)
  /-- RUN. -/
  | run
  /-- Cycle: the key bitmap `keys_in` and one drawn byte, which only RND reads. -/
  | cycle (keysIn : Word) (draw : Byte)
  /-- Tick: the stop signal `stop_in`. -/
  | tick (stopIn : Bool)
  deriving DecidableEq, Repr, Inhabited

/-- FREE VALUE (log 2): the k-th event the world outside CORE produces once the events listed in a
state are used up. The schedule, `keys_in`, the drawn bytes, `stop_in` and the host's moves are free
(R6, R129, D3); nothing constrains them here. -/
opaque Config.freeEvent : Nat → Event

/-- FREE VALUE (log 6), `MEM_INIT` of R6: what an address outside the font holds after the given
RESET until something is written there ("unspecified, any value", spec/10_state.md R40, D29). -/
opaque Config.memInit (resets : Nat) (a : Nat) : Byte

end Sys2Proof
end

