-- ==== Sys2Proof/Machine/Font.lean ====
section
/-! DEFINITION. The default values of the machine's parameters (spec/00_scope.md R6). -/

namespace Sys2Proof.Machine

/-- The default `FONT`, glyphs 0 to F, 5 bytes each (spec/20_memory.md R68). PRESUMED, unsafe: the
spec marks these bytes as general knowledge, not from its source (D30, log 5). -/
def defaultFont : Vector Byte 80 := #v[
  0xF0, 0x90, 0x90, 0x90, 0xF0,  0x20, 0x60, 0x20, 0x20, 0x70,
  0xF0, 0x10, 0xF0, 0x80, 0xF0,  0xF0, 0x10, 0xF0, 0x10, 0xF0,
  0x90, 0x90, 0xF0, 0x10, 0x10,  0xF0, 0x80, 0xF0, 0x10, 0xF0,
  0xF0, 0x80, 0xF0, 0x90, 0xF0,  0xF0, 0x10, 0x20, 0x40, 0x40,
  0xF0, 0x90, 0xF0, 0x90, 0xF0,  0xF0, 0x90, 0xF0, 0x10, 0xF0,
  0xF0, 0x90, 0xF0, 0x90, 0x90,  0xE0, 0x90, 0xE0, 0x90, 0xE0,
  0xF0, 0x80, 0x80, 0x80, 0xF0,  0xE0, 0x90, 0x90, 0x90, 0xE0,
  0xF0, 0x80, 0xF0, 0x80, 0xF0,  0xF0, 0x80, 0xF0, 0x80, 0x80]

/-- The parameters at their defaults (R6). DESIGN CHOICE, unsafe: the spec's own defaults (D6, D30),
which only `State.reset` uses (log 4, log 5). -/
def defaultParams : Params := { shiftSrc := .vx, font := defaultFont }

end Sys2Proof.Machine
end

