-- ==== Sys2Proof/Machine/State.lean ====
section
/-! DEFINITION. The state of gChip8 CORE (spec/10_state.md R20), its value after reset (R40), and the
types of the three outcomes of a step. -/

namespace Sys2Proof.Machine

/-- Main memory as (address, byte) pairs: addresses strictly rising, no entry equal to what an
unlisted address reads as (the form is `Memory.wf`, Machine/Memory.lean). -/
abbrev Memory := List Host.Cell

/-- The framebuffer, 32 rows of 64 pixels (spec/10_state.md R31): pixel (r, c) is bit 63 - c of row r,
so a row's 8 packed bytes read from left to right. The packing is not observable (D22, log 14). -/
abbrev FrameBuf := Vector (BitVec 64) 32

/-- The key-wait machine (spec/10_state.md R35). -/
inductive KwState where
  | idle
  | armed
  deriving DecidableEq, Repr

/-- `RUNSTATE` (spec/10_state.md R36). -/
inductive RunState where
  | idle
  | running
  | halted
  | stopped
  deriving DecidableEq, Repr

/-- `ERR_KIND` (spec/60_exceptions.md R261). -/
inductive ErrKind where
  | none
  | illegalInstruction
  | stackOverflow
  | stackUnderflow
  | memoryFault
  | programTooLarge
  deriving DecidableEq, Repr

/-- The whole machine: every element of spec/10_state.md R20 under the spec's name, and after them
the model's own fields, which carry what R39 calls parameters and inputs of the step relation. -/
structure State where
  /-- `V[0]`..`V[15]` (R21). -/
  v : Vector Byte 16
  /-- `PC` (R24). -/
  pc : Word
  /-- `I` (R27). -/
  i : Word
  /-- `SP`, the count of stack entries in use, 0..16 (R28). -/
  sp : Fin 17
  /-- `STACK[0]`..`STACK[15]` (R28). -/
  stack : Vector Word 16
  /-- `DT` (R29). -/
  dt : Byte
  /-- `ST` (R29). -/
  st : Byte
  /-- `MEM` (R33). -/
  mem : Memory
  /-- `FB` (R31). -/
  fb : FrameBuf
  /-- `DIRTY` (R32). -/
  dirty : Bool
  /-- `KEYS` (R30). -/
  keys : Word
  /-- `IR`, hidden (R34). -/
  ir : Word
  /-- `KW_STATE`, hidden (R35). -/
  kwState : KwState
  /-- `KW_PREV`, hidden (R35). -/
  kwPrev : Word
  /-- `RUNSTATE` (R36). -/
  runState : RunState
  /-- `ERR_KIND` (R37). -/
  errKind : ErrKind
  /-- `ERR_WORD` (R37). -/
  errWord : Word
  /-- `ERR_PC` (R37). -/
  errPc : Word
  /-- `SNAP` (R38). -/
  snap : FrameBuf
  /-- The strobe `snap_valid` (R38, log 10). -/
  snapValid : Bool
  /-- The model's own: the byte the random source presents to this Cycle (spec/42_alu.md R184, log 9). -/
  rndIn : Byte
  /-- The model's own: the boundary events still to come, next first (log 2). -/
  events : List Event
  /-- The model's own: how many free events have been used (log 2). -/
  eventNo : Nat
  /-- The model's own: how many RESETs there have been since power-on (log 6). -/
  resets : Nat
  /-- The model's own: the parameters, which no step changes (log 4, log 5). -/
  params : Params
  deriving DecidableEq, Repr

/-- A stop of the machine with a fault. There is none, and that is safe: every fault of the spec is
taken as fault entry, a next state with `RUNSTATE` = `Halted` (spec/60_exceptions.md R266, log 1), and
no instruction of the spec has an effect the model cannot give. -/
inductive Fault
  deriving DecidableEq, Repr

/-- An instruction without a meaning. -/
inductive Refusal where
  /-- Raised only by an arm of `exec` whose instruction has no meaning yet; safe. No arm is left so. -/
  | notModelled (mnemonic : String)
  deriving DecidableEq, Repr

/-- The outcome of one step of this machine. -/
abbrev Result := Host.Outcome State Fault Refusal

/-- The machine right after RESET (spec/10_state.md R40). `STACK`, `IR`, `KW_PREV`, `ERR_WORD`,
`ERR_PC` and `SNAP` are unspecified there: DESIGN CHOICE, unsafe, all zero (log 7). The values of `I`,
`SP`, `DT`, `ST`, `DIRTY`, `KEYS`, `KW_STATE`, `RUNSTATE`, `ERR_KIND` and `snap_valid` are the spec's own
decisions (log 8). -/
def State.reset : State where
  v := Vector.replicate 16 0
  pc := 0x0200
  i := 0
  sp := 0
  stack := Vector.replicate 16 0
  dt := 0
  st := 0
  mem := []
  fb := Vector.replicate 32 0
  dirty := false
  keys := 0
  ir := 0
  kwState := .idle
  kwPrev := 0
  runState := .idle
  errKind := .none
  errWord := 0
  errPc := 0
  snap := Vector.replicate 32 0
  snapValid := false
  rndIn := 0
  events := []
  eventNo := 0
  resets := 0
  params := defaultParams

end Sys2Proof.Machine
end

