-- ==== Sys2Proof/Machine/Memory.lean ====
section
/-! DEFINITION. Main memory: what an unlisted address reads as, reading and writing one byte in the
canonical form, and that form (spec/20_memory.md R60, R61, R65, R68). -/

namespace Sys2Proof.Machine

/-- What an unlisted address reads as: the font byte below 0x050 (spec/20_memory.md R68), and above it
nothing the spec gives (spec/10_state.md R40). There `readByte` supplies the free value (log 6). -/
def unlisted (font : Vector Byte 80) (a : Nat) : Option Byte := font[a]?

/-- The listed byte at an address. -/
def lookup : Memory → Nat → Option Byte
  | [], _ => none
  | (k, b) :: m, a => if a = k then some b else lookup m a

/-- The list with the entry of an address set. -/
def insertCell : Memory → Nat → Byte → Memory
  | [], a, b => [(a, b)]
  | (k, c) :: m, a, b =>
    if a < k then (a, b) :: (k, c) :: m
    else if a = k then (a, b) :: m
    else (k, c) :: insertCell m a b

/-- The list without any entry of an address. -/
def eraseCell : Memory → Nat → Memory
  | [], _ => []
  | (k, c) :: m, a => if a = k then eraseCell m a else (k, c) :: eraseCell m a

/-- A write of one byte that keeps the canonical form: writing what an unlisted address reads as
removes the entry. -/
def writeCell (font : Vector Byte 80) (m : Memory) (a : Nat) (b : Byte) : Memory :=
  if unlisted font a = some b then eraseCell m a else insertCell m a b

/-- Writes of bytes at ascending addresses (`MemWrite` without its check, spec/20_memory.md R65). -/
def writeCells (font : Vector Byte 80) : Memory → Nat → List Byte → Memory
  | m, _, [] => m
  | m, a, b :: bs => writeCells font (writeCell font m a b) (a + 1) bs

/-- Addresses rise strictly from a bound on, stay inside the 4096 bytes (R60), and no entry says what
an unlisted address reads as anyway. -/
def wfFrom (font : Vector Byte 80) : Nat → Memory → Bool
  | _, [] => true
  | lo, (k, b) :: m =>
    decide (lo ≤ k) && decide (k < 4096) && decide (unlisted font k ≠ some b) && wfFrom font (k + 1) m

/-- The canonical form of memory. -/
def Memory.wf (font : Vector Byte 80) (m : Memory) : Bool := wfFrom font 0 m

end Sys2Proof.Machine
end

