-- ==== Sys2Proof/Machine/Ops.lean ====
section
/-! DEFINITION. The named operations the meanings and the step are written over: the primitives of
spec/00_scope.md R9 (registers, memory, stack, skip), fetch (spec/40_execution_cycle.md R125) and fault
entry (spec/60_exceptions.md R266). -/

namespace Sys2Proof.Machine

/-! ### Registers (spec/10_state.md R21, R22) -/

/-- `V[x]`. -/
def getV (s : State) (x : Reg) : Byte := s.v[x.toNat]

/-- `V[x] <- b`. -/
def setV (s : State) (x : Reg) (b : Byte) : State := { s with v := s.v.set x.toNat b }

/-- Result first, flag second: with x = 15 only the flag survives (spec/10_state.md R23, the spec's
decision D7; spec/42_alu.md R170). -/
def setResultAndFlag (s : State) (x : Reg) (result flag : Byte) : State :=
  setV (setV s x result) VF flag

/-! ### Memory (spec/20_memory.md R65, R66) -/

/-- `MEM[a]`: the listed byte, else what the address holds unlisted, else the free value of a byte
nothing has written since the last RESET (log 6). -/
def readByte (s : State) (a : Nat) : Byte :=
  match lookup s.mem a with
  | some b => b
  | none => (unlisted s.params.font a).getD (Config.memInit s.resets a)

/-- `MemCheck(addr, n)` passes: unless n > 0 and addr + n - 1 > 0xFFF, on unbounded integers (R66;
the zero-length case is the spec's decision D16). -/
def memCheck (addr n : Nat) : Bool := !decide (n > 0 ∧ addr + n - 1 > 0xFFF)

/-- The bytes at ascending addresses, `MemRead` after its check (R65). -/
def readBytes (s : State) (addr : Nat) : Nat → List Byte
  | 0 => []
  | n + 1 => readByte s addr :: readBytes s (addr + 1) n

/-- `MemRead(addr, n)`: the bytes, or `none` where the check raises MemoryFault (R65). -/
def memRead (s : State) (addr n : Nat) : Option (List Byte) :=
  if memCheck addr n then some (readBytes s addr n) else none

/-- `MEM[addr + k] <- bytes[k]`, `MemWrite` after its check (R65). -/
def writeBytes (s : State) (addr : Nat) (bytes : List Byte) : State :=
  { s with mem := writeCells s.params.font s.mem addr bytes }

/-- `MemWrite(addr, n, bytes)`: the state written, or `none` where the check raises MemoryFault; the
whole check comes before the first write (R65, R67). -/
def memWrite (s : State) (addr : Nat) (bytes : List Byte) : Option State :=
  if memCheck addr bytes.length then some (writeBytes s addr bytes) else none

/-! ### Fault entry (spec/60_exceptions.md R266) -/

/-- Fault entry with the address recorded in `ERR_PC`: the three error registers and `RUNSTATE`, and
nothing else. There is no handler and nothing is saved anywhere else (R266). -/
def faultEntry (kind : ErrKind) (errPc : Word) (s : State) : State :=
  { s with errKind := kind, errWord := s.ir, errPc := errPc, runState := .halted }

/-- `raise E` in decode or execute: `ERR_PC` is the address the word was fetched from, `PC` - 2; the
fetch advance is kept (R266, the spec's decision D13). -/
def raise (kind : ErrKind) (s : State) : State := faultEntry kind (s.pc - 2) s

/-- The MemoryFault of a fetch: `PC` has not been advanced and `ERR_PC` is `PC` (R125, R266).
`ERR_WORD` gets `IR`, the previous word, as R266 writes it; R261 calls it unspecified (log 11). -/
def raiseAtFetch (s : State) : State := faultEntry .memoryFault s.pc s

/-! ### The call stack (spec/10_state.md R28) -/

/-- `Push(w)`: `none` at `SP` = 16, where it raises StackOverflow. -/
def push (w : Word) (s : State) : Option State :=
  if h : s.sp.val < 16 then
    some { s with stack := s.stack.set s.sp.val w, sp := ⟨s.sp.val + 1, by omega⟩ }
  else none

/-- `Pop()`: `none` at `SP` = 0, where it raises StackUnderflow; the popped entry keeps its value. -/
def pop (s : State) : Option (Word × State) :=
  if h : 0 < s.sp.val then
    some (s.stack[s.sp.val - 1], { s with sp := ⟨s.sp.val - 1, by omega⟩ })
  else none

/-! ### Program counter (spec/10_state.md R24, spec/41_control_flow.md R150) -/

/-- `PC <- w`. -/
def setPc (s : State) (w : Word) : State := { s with pc := w }

/-- A skip adds 2 to `PC` on top of the fetch advance, if its condition holds (R150). -/
def skipIf (p : Bool) (s : State) : State := if p then setPc s (s.pc + 2) else s

/-- Both bytes of the instruction word lie in memory (R125, the spec's decision D12). -/
def fetchOk (s : State) : Bool := !decide (s.pc.toNat > 0xFFE)

/-- The word at `PC`, big-endian (spec/20_memory.md R62). -/
def fetchWord (s : State) : Word :=
  wordOfBytes (readByte s s.pc.toNat) (readByte s (s.pc.toNat + 1))

/-- Fetch, after its check: `IR` and the advance of `PC` by 2 (R125). -/
def fetch (s : State) : State := { s with ir := fetchWord s, pc := s.pc + 2 }

end Sys2Proof.Machine
end

