-- ==== Sys2Proof/Machine/Operands.lean ====
section
/-! DEFINITION. The operand forms beyond a register and an immediate byte: address immediates
(spec/30_encoding.md R93), the shift operand (spec/42_alu.md R179), the base register `I`
(spec/43_index_memory.md R200), decimal digits, register blocks and key numbers. -/

namespace Sys2Proof.Machine

/-- `nnn` zero-extended to 16 bits (spec/30_encoding.md R93). -/
def zextAddr (nnn : Addr) : Word := nnn.setWidth 16

/-- A register value zero-extended to 16 bits. -/
def zextByte (b : Byte) : Word := b.setWidth 16

/-- The operand of `SHR` and `SHL`: `V[x]`, or `V[y]` when `SHIFT_SRC` = `VY` (spec/42_alu.md R179). -/
def shiftOperand (s : State) (x y : Reg) : Byte :=
  match s.params.shiftSrc with
  | .vx => getV s x
  | .vy => getV s y

/-- The base address of a data access, `I` as an unbounded integer: offsets are added without any
reduction (spec/43_index_memory.md R200). -/
def baseAddr (s : State) : Nat := s.i.toNat

/-- The address of the digit sprite of a value, 5 * v, not masked (spec/43_index_memory.md R203). -/
def glyphAddr (v : Byte) : Word := BitVec.ofNat 16 (5 * v.toNat)

/-- The three decimal digits, hundreds first (spec/43_index_memory.md R204). -/
def bcdBytes (v : Byte) : List Byte :=
  [BitVec.ofNat 8 (v.toNat / 100), BitVec.ofNat 8 (v.toNat / 10 % 10), BitVec.ofNat 8 (v.toNat % 10)]

/-- `V[0]`..`V[x]`, x included (spec/43_index_memory.md R205). -/
def regBlock (s : State) (x : Reg) : List Byte := s.v.toList.take (x.toNat + 1)

/-- `V[k] <- bytes[0]`, `V[k + 1] <- bytes[1]`, ... (spec/43_index_memory.md R206). -/
def setRegs (v : Vector Byte 16) : Nat → List Byte → Vector Byte 16
  | _, [] => v
  | k, b :: bs => setRegs (v.setIfInBounds k b) (k + 1) bs

/-- `Key(k)`: bit k of `KEYS` for k <= 15, not pressed for k >= 16 (spec/45_keypad_timers.md R240; the
latter is the spec's decision D24). -/
def keyDown (s : State) (k : Byte) : Bool := decide (k.toNat ≤ 15) && s.keys.getLsbD k.toNat

/-- Keys held at the previous sample and not held now (spec/45_keypad_timers.md R243). -/
def releasedKeys (s : State) : Word := s.kwPrev &&& ~~~ s.keys

/-- The least k in 0..15 whose bit is set, for a bitmap with one (spec/45_keypad_timers.md R243; the
least is the spec's decision D25). -/
def leastKey (rel : Word) : Nat := ((List.range 16).find? (fun k => rel.getLsbD k)).getD 0

end Sys2Proof.Machine
end

