-- ==== Sys2Proof/Machine/Alu.lean ====
section
/-! DEFINITION. Register load, arithmetic, logic, shift and random instructions (spec/42_alu.md R170 to
R184). Results are computed on unbounded integers and narrowed at the end (spec/00_scope.md R7). -/

namespace Sys2Proof.Machine

/-- `LD Vx, kk` (R171). -/
def execLdImm (x : Reg) (kk : Byte) (s : State) : Result := .next (setV s x kk)

/-- `ADD Vx, kk` (R172): no flag. -/
def execAddImm (x : Reg) (kk : Byte) (s : State) : Result :=
  .next (setV s x (BitVec.ofNat 8 ((getV s x).toNat + kk.toNat)))

/-- `LD Vx, Vy` (R173). -/
def execLdReg (x y : Reg) (s : State) : Result := .next (setV s x (getV s y))

/-- `OR Vx, Vy` (R174): `VF` is not touched (the spec's decision D8). -/
def execOrReg (x y : Reg) (s : State) : Result := .next (setV s x (getV s x ||| getV s y))

/-- `AND Vx, Vy` (R175): `VF` is not touched (the spec's decision D8). -/
def execAndReg (x y : Reg) (s : State) : Result := .next (setV s x (getV s x &&& getV s y))

/-- `XOR Vx, Vy` (R176): `VF` is not touched (the spec's decision D8). -/
def execXorReg (x y : Reg) (s : State) : Result := .next (setV s x (getV s x ^^^ getV s y))

/-- `ADD Vx, Vy` (R177). -/
def execAddReg (x y : Reg) (s : State) : Result :=
  .next (setResultAndFlag s x (BitVec.ofNat 8 ((getV s x).toNat + (getV s y).toNat))
    (carryFlag (getV s x) (getV s y)))

/-- a - b modulo 256, on integers (R178, R180). -/
def subBytes (a b : Byte) : Byte := BitVec.ofInt 8 ((a.toNat : Int) - (b.toNat : Int))

/-- `SUB Vx, Vy` (R178). -/
def execSubReg (x y : Reg) (s : State) : Result :=
  .next (setResultAndFlag s x (subBytes (getV s x) (getV s y)) (notBorrowFlag (getV s x) (getV s y)))

/-- `SHR Vx` (R179). -/
def execShr (x y : Reg) (s : State) : Result :=
  .next (setResultAndFlag s x (BitVec.ofNat 8 ((shiftOperand s x y).toNat / 2))
    (lowBitFlag (shiftOperand s x y)))

/-- `SUBN Vx, Vy` (R180). -/
def execSubnReg (x y : Reg) (s : State) : Result :=
  .next (setResultAndFlag s x (subBytes (getV s y) (getV s x)) (notBorrowFlag (getV s y) (getV s x)))

/-- `SHL Vx` (R181). -/
def execShl (x y : Reg) (s : State) : Result :=
  .next (setResultAndFlag s x (BitVec.ofNat 8 ((shiftOperand s x y).toNat * 2))
    (highBitFlag (shiftOperand s x y)))

/-- `RND Vx, kk` (R184): the byte drawn for this Cycle, masked (log 9). -/
def execRnd (x : Reg) (kk : Byte) (s : State) : Result := .next (setV s x (s.rndIn &&& kk))

end Sys2Proof.Machine
end

