-- ==== Sys2Proof/Machine/Control.lean ====
section
/-! DEFINITION. The control-transfer instructions (spec/41_control_flow.md R150 to R158). `PC` already
holds the address of the instruction plus 2 (spec/40_execution_cycle.md R125). -/

namespace Sys2Proof.Machine

/-- `RET` (R151). -/
def execRet (s : State) : Result :=
  match pop s with
  | none => .next (raise .stackUnderflow s)
  | some (w, t) => .next (setPc t w)

/-- `JP nnn` (R152). -/
def execJp (nnn : Addr) (s : State) : Result := .next (setPc s (zextAddr nnn))

/-- `CALL nnn` (R153): the value pushed is the address of the next instruction. -/
def execCall (nnn : Addr) (s : State) : Result :=
  match push s.pc s with
  | none => .next (raise .stackOverflow s)
  | some t => .next (setPc t (zextAddr nnn))

/-- `SE Vx, kk` (R154). -/
def execSeImm (x : Reg) (kk : Byte) (s : State) : Result := .next (skipIf (getV s x == kk) s)

/-- `SNE Vx, kk` (R155). -/
def execSneImm (x : Reg) (kk : Byte) (s : State) : Result := .next (skipIf (getV s x != kk) s)

/-- `SE Vx, Vy` (R156). -/
def execSeReg (x y : Reg) (s : State) : Result := .next (skipIf (getV s x == getV s y) s)

/-- `SNE Vx, Vy` (R157). -/
def execSneReg (x y : Reg) (s : State) : Result := .next (skipIf (getV s x != getV s y) s)

/-- `JP V0, nnn` (R158): always register 0, and no 12-bit mask (the spec's decision D38). -/
def execJpV0 (nnn : Addr) (s : State) : Result :=
  .next (setPc s (BitVec.ofNat 16 (nnn.toNat + (getV s 0).toNat)))

end Sys2Proof.Machine
end

