-- ==== Sys2Proof/Machine/Display.lean ====
section
/-! DEFINITION. The framebuffer, the sprite compositor and the display instructions (spec/44_display.md
R220 to R226). -/

namespace Sys2Proof.Machine

/-- `FB[r][c]` (spec/10_state.md R31). -/
def pixel (f : FrameBuf) (r : Fin 32) (c : Fin 64) : Bool := f[r].getMsbD c.val

/-- The bit of column c in a row. -/
def columnBit (c : Fin 64) : BitVec 64 := BitVec.twoPow 64 (63 - c.val)

/-- `FB[r][c] <- FB[r][c] ^ 1` (R222). -/
def flipPixel (f : FrameBuf) (r : Fin 32) (c : Fin 64) : FrameBuf :=
  f.set r.val (f[r] ^^^ columnBit c)

/-- The row of sprite row i: (vy + i) mod 32 (R221; the wrap is the spec's decision D19). -/
def spriteRow (vy : Byte) (i : Nat) : Fin 32 := Fin.ofNat 32 (vy.toNat + i)

/-- The column of sprite bit j: (vx + j) mod 64 (R221; the spec's decision D20). -/
def spriteCol (vx : Byte) (j : Nat) : Fin 64 := Fin.ofNat 64 (vx.toNat + j)

/-- What a draw changes: the framebuffer and `hit` (R222). -/
structure Canvas where
  fb : FrameBuf
  hit : Bool
  deriving DecidableEq, Repr

/-- One sprite bit that is 1 on one pixel (R222, R223). -/
def drawBit (k : Canvas) (r : Fin 32) (c : Fin 64) : Canvas :=
  { fb := flipPixel k.fb r c, hit := k.hit || pixel k.fb r c }

/-- One sprite byte on one row, bit 7 - j at column vx + j, j from 0 to 7 (R222, spec/20_memory.md
R78). -/
def drawByte (k : Canvas) (vx : Byte) (r : Fin 32) (b : Byte) : Canvas :=
  (List.range 8).foldl
    (fun acc j => if b.getLsbD (7 - j) then drawBit acc r (spriteCol vx j) else acc) k

/-- The sprite's bytes from row number i on (R222). -/
def drawRows (vx vy : Byte) : Canvas → Nat → List Byte → Canvas
  | k, _, [] => k
  | k, i, b :: bs => drawRows vx vy (drawByte k vx (spriteRow vy i) b) (i + 1) bs

/-- The whole sprite (R222). -/
def drawSprite (f : FrameBuf) (vx vy : Byte) (sprite : List Byte) : Canvas :=
  drawRows vx vy { fb := f, hit := false } 0 sprite

/-- `CLS` (R220): `DIRTY` is set also when the display was blank. -/
def execCls (s : State) : Result := .next { s with fb := Vector.replicate 32 0, dirty := true }

/-- `DRW Vx, Vy, n` (R222): coordinates and sprite bytes are read first, then pixels, `VF` and `DIRTY`
are written; n = 0 draws nothing and still writes both (the spec's decision D23). -/
def execDrw (x y : Reg) (n : Nibble) (s : State) : Result :=
  match memRead s (baseAddr s) n.toNat with
  | none => .next (raise .memoryFault s)
  | some sprite =>
    let k := drawSprite s.fb (getV s x) (getV s y) sprite
    .next (setV { s with fb := k.fb, dirty := true } VF (flagByte k.hit))

/-! ### The forms the host sees -/

/-- Packed byte b of row r, pixel 8b in bit 7 (spec/10_state.md R31, R224). -/
def packedByte (f : FrameBuf) (r : Fin 32) (b : Fin 8) : Byte := f[r].extractLsb' (56 - 8 * b.val) 8

/-- A frame as the renderer gets it, a 64x32 boolean grid, row-major, top-left origin: element
r * 64 + c is pixel (r, c) (spec/40_execution_cycle.md R135). -/
def snapshotGrid (f : FrameBuf) : List Bool :=
  (List.finRange 32).flatMap (fun r => (List.finRange 64).map (pixel f r))

end Sys2Proof.Machine
end

