-- ==== Sys2Proof/Machine/IndexMemory.lean ====
section
/-! DEFINITION. Address-register and memory-transfer instructions (spec/43_index_memory.md R200 to
R207). `I` is unchanged by the transfers (the spec's decision D18). -/

namespace Sys2Proof.Machine

/-- `I <- w`. -/
def setI (s : State) (w : Word) : State := { s with i := w }

/-- `LD I, nnn` (R201). -/
def execLdI (nnn : Addr) (s : State) : Result := .next (setI s (zextAddr nnn))

/-- `ADD I, Vx` (R202): modulo 65536 (the spec's decision D17), no flag. -/
def execAddI (x : Reg) (s : State) : Result :=
  .next (setI s (BitVec.ofNat 16 (s.i.toNat + (getV s x).toNat)))

/-- `LD F, Vx` (R203). -/
def execLdF (x : Reg) (s : State) : Result := .next (setI s (glyphAddr (getV s x)))

/-- `LD B, Vx` (R204). -/
def execLdB (x : Reg) (s : State) : Result :=
  match memWrite s (baseAddr s) (bcdBytes (getV s x)) with
  | none => .next (raise .memoryFault s)
  | some t => .next t

/-- `LD [I], Vx` (R205). -/
def execLdMemVx (x : Reg) (s : State) : Result :=
  match memWrite s (baseAddr s) (regBlock s x) with
  | none => .next (raise .memoryFault s)
  | some t => .next t

/-- `LD Vx, [I]` (R206). -/
def execLdVxMem (x : Reg) (s : State) : Result :=
  match memRead s (baseAddr s) (x.toNat + 1) with
  | none => .next (raise .memoryFault s)
  | some bytes => .next { s with v := setRegs s.v 0 bytes }

end Sys2Proof.Machine
end

