-- ==== Sys2Proof/Machine/KeypadTimers.lean ====
section
/-! DEFINITION. Keypad and timer instructions (spec/45_keypad_timers.md R240 to R247). `KEYS` has been
sampled at the start of the Cycle (spec/40_execution_cycle.md R124). -/

namespace Sys2Proof.Machine

/-- `SKP Vx` (R241). -/
def execSkp (x : Reg) (s : State) : Result := .next (skipIf (keyDown s (getV s x)) s)

/-- `SKNP Vx` (R242). -/
def execSknp (x : Reg) (s : State) : Result := .next (skipIf (!keyDown s (getV s x)) s)

/-- `LD Vx, K` (R243), one Cycle of it: the first arms the wait, a later one completes on a release
edge or keeps waiting. -/
def execLdVxK (x : Reg) (s : State) : Result :=
  match s.kwState with
  | .idle => .next { s with kwPrev := s.keys, kwState := .armed }
  | .armed =>
    if releasedKeys s = 0 then .next { s with kwPrev := s.keys }
    else .next { setV s x (BitVec.ofNat 8 (leastKey (releasedKeys s))) with kwState := .idle }

/-- `LD Vx, DT` (R244, the spec's decision D5, log 16). -/
def execLdVxDT (x : Reg) (s : State) : Result := .next (setV s x s.dt)

/-- `LD DT, Vx` (R245, the spec's decision D5, log 16). -/
def execLdDT (x : Reg) (s : State) : Result := .next { s with dt := getV s x }

/-- `LD ST, Vx` (R246, the spec's decision D5, log 16). -/
def execLdST (x : Reg) (s : State) : Result := .next { s with st := getV s x }

end Sys2Proof.Machine
end

