-- ==== Sys2Proof/Machine/Cycle.lean ====
section
/-! DEFINITION. The boundary events (spec/40_execution_cycle.md R121): the Cycle (R123 to R128), the Tick
(R130, R131), RESET (R132), RUN (R133), LOAD (spec/20_memory.md R70), and the status outputs
(spec/10_state.md R43). -/

namespace Sys2Proof.Machine

/-! ### The Cycle -/

/-- The start of a Cycle: `KEYS` takes `keys_in` (R124), the drawn byte is presented (R121), and the
one-event strobe `snap_valid` of an earlier Tick is over (log 10). -/
def sampleInputs (keysIn : Word) (draw : Byte) (s : State) : State :=
  { s with keys := keysIn, rndIn := draw, snapValid := false }

/-- Decode `IR` and execute; an illegal word raises IllegalInstruction (R126, R127, spec/30_encoding.md
R100). -/
def decodeAndExecute (s : State) : Result :=
  match decode s.ir with
  | none => .next (raise .illegalInstruction s)
  | some i => exec i s

/-- One Cycle, performed only when `RUNSTATE` = `Running` (R123): no fetch while the key wait is armed
(R128). -/
def cycle (keysIn : Word) (draw : Byte) (s : State) : Result :=
  if s.runState = .running then
    match s.kwState with
    | .armed => decodeAndExecute (sampleInputs keysIn draw s)
    | .idle =>
      if fetchOk s then decodeAndExecute (fetch (sampleInputs keysIn draw s))
      else .next (raiseAtFetch (sampleInputs keysIn draw s))
  else .next s

/-! ### The Tick -/

/-- A timer counts down by 1, floored at 0 (R130). -/
def countDown (t : Byte) : Byte := if t = 0 then 0 else t - 1

/-- Publication of the frame if it is dirty: `SNAP`, the strobe, `DIRTY` cleared (R130, R135). -/
def publish (s : State) : State :=
  if s.dirty then { s with snap := s.fb, snapValid := true, dirty := false }
  else { s with snapValid := false }

/-- One Tick, performed only when `RUNSTATE` = `Running`: decrement, publish, sample stop, in the order
the spec decides (R130, R131, D33). -/
def tick (stopIn : Bool) (s : State) : State :=
  if s.runState = .running then
    let t := publish { s with dt := countDown s.dt, st := countDown s.st }
    if stopIn then { t with runState := .stopped } else t
  else s

/-! ### Host operations -/

/-- RESET: every element at its value of spec/10_state.md R40. The model's own fields that are not the
machine's stay: the parameters, the events still to come, the count of free events; and the
unspecified bytes of memory are fresh (log 6, log 20). -/
def powerOn (s : State) : State :=
  { State.reset with
    events := s.events, eventNo := s.eventNo, resets := s.resets + 1, params := s.params }

/-- RUN: accepted in `Idle`, ignored elsewhere (R122, R133). -/
def startRun (s : State) : State :=
  if s.runState = .idle then { s with runState := .running } else s

/-- The largest program image, 4096 - 0x200 bytes (spec/00_scope.md R5). -/
def progMax : Nat := 4096 - 0x200

/-- LOAD: accepted in `Idle`; an image that is too large writes nothing and reports ProgramTooLarge
(spec/20_memory.md R70, spec/60_exceptions.md R267). -/
def loadProgram (bytes : List Byte) (s : State) : State :=
  if s.runState = .idle then
    if bytes.length > progMax then { s with errKind := .programTooLarge }
    else { writeBytes s 0x200 bytes with errKind := .none }
  else s

/-! ### One event -/

/-- The next event and the state it is served in: the first listed event, else a free one (log 2). -/
def takeEvent (s : State) : Event × State :=
  match s.events with
  | e :: es => (e, { s with events := es })
  | [] => (Config.freeEvent s.eventNo, { s with eventNo := s.eventNo + 1 })

/-- Serve one event (R121). -/
def serve (e : Event) (s : State) : Result :=
  match e with
  | .reset => .next (powerOn s)
  | .load bytes => .next (loadProgram bytes s)
  | .run => .next (startRun s)
  | .cycle keysIn draw => cycle keysIn draw s
  | .tick stopIn => .next (tick stopIn s)

/-- Take the next event and serve it. -/
def serveNext (s : State) : Result :=
  match takeEvent s with
  | (e, t) => serve e t

/-- A state in which the next event is a Cycle that fetches the given word at `PC`, with the inputs the
state already holds: what a LOAD of a program, RUN and the offer of a Cycle bring about (log 3). -/
def placeNext (s : State) (w : Word) : State :=
  { writeBytes s s.pc.toNat (bytesOfWord w) with
    runState := .running, kwState := .idle, events := .cycle s.keys s.rndIn :: s.events }

/-! ### Status outputs (spec/10_state.md R43, the spec's decisions D14 and D43) -/

/-- The output `run_state`. -/
def runStateCode : RunState → BitVec 2
  | .idle => 0
  | .running => 1
  | .halted => 2
  | .stopped => 3

/-- The output `err_kind` (spec/60_exceptions.md R261). -/
def errKindCode : ErrKind → BitVec 3
  | .none => 0
  | .illegalInstruction => 1
  | .stackOverflow => 2
  | .stackUnderflow => 3
  | .memoryFault => 4
  | .programTooLarge => 5

end Sys2Proof.Machine
end

