-- ==== Sys2Proof/Machine/Step.lean ====
section
/-! DEFINITION. The step of the machine: one boundary event (spec/40_execution_cycle.md R120, R121). -/

namespace Sys2Proof.Machine

/-- One step serves the next boundary event (log 2). -/
def step (s : State) : Host.Outcome State Fault Refusal := serveNext s

/-- The state with the instruction of the low `nbits` bits of `w` placed where the next step fetches
and runs it (log 3). It needs `PC` <= 0xFFE, as fetch does. -/
def State.withFetchWord (s : State) (nbits w : Nat) : State :=
  placeNext s (BitVec.ofNat 16 (w % 2 ^ nbits))

end Sys2Proof.Machine
end

