-- ==== Sys2Proof/Safety.lean ====
section
/-! DEFINITION. What counts as a safe run, the invariant of the machine, and the words in which the
statements say what a step leaves unchanged. -/

namespace Sys2Proof

open Sys2Proof.Machine

/-! ### Faults -/

/-- The four run-time faults (spec/60_exceptions.md R261, column "run-time fault"). -/
def isRunTimeFault : ErrKind → Bool
  | .illegalInstruction | .stackOverflow | .stackUnderflow | .memoryFault => true
  | .none | .programTooLarge => false

/-- The fault of an instruction in a state, if its one check fails (spec/60_exceptions.md R263 to R265,
R269), said on unbounded integers. -/
def faultOf (i : Instr) (s : State) : Option ErrKind :=
  match i with
  | .call _ => if s.sp.val = 16 then some .stackOverflow else none
  | .ret => if s.sp.val = 0 then some .stackUnderflow else none
  | .drw _ _ n => if n.toNat > 0 ∧ s.i.toNat + n.toNat > 0x1000 then some .memoryFault else none
  | .ldB _ => if s.i.toNat + 2 > 0xFFF then some .memoryFault else none
  | .ldMemVx x | .ldVxMem x => if s.i.toNat + x.toNat > 0xFFF then some .memoryFault else none
  | _ => none

/-- A safe step: the machine goes on and does not halt with a fault. -/
def SafeStep (s : State) : Prop := ∃ t, step s = .next t ∧ t.runState ≠ .halted

/-! ### The invariant -/

/-- The word is a legal `LD Vx, K`. -/
def isKeyWaitWord (w : Word) : Bool :=
  match decode w with
  | some (.ldVxK _) => true
  | _ => false

/-- What holds of the machine at reset and after every step, whatever the events. -/
structure Inv (s : State) : Prop where
  /-- Memory is in its canonical form. -/
  memWf : Memory.wf s.params.font s.mem = true
  /-- `KW_STATE` = `Armed` only while `IR` holds an `LD Vx, K` (spec/10_state.md R35). -/
  armedWord : s.kwState = .armed → isKeyWaitWord s.ir = true
  /-- `PC` never exceeds 0x10FE (spec/10_state.md R26). -/
  pcBound : s.pc.toNat ≤ 0x10FE
  /-- A stack entry in use never exceeds 0x1000 (spec/10_state.md R26). -/
  stackBound : ∀ k : Fin 16, k.val < s.sp.val → s.stack[k].toNat ≤ 0x1000
  /-- The machine is `Halted` exactly while `ERR_KIND` is a run-time fault (spec/60_exceptions.md R260,
  R261). -/
  haltedFault : s.runState = .halted ↔ isRunTimeFault s.errKind = true

/-! ### Who writes what -/

/-- The instructions that set `PC` beyond the fetch advance: JP, CALL, RET, JP V0 and the skips SE,
SNE, SKP and SKNP (spec/10_state.md R25). -/
def writesPc : Instr → Bool
  | .jp _ | .call _ | .ret | .jpV0 _ | .seImm _ _ | .sneImm _ _ | .seReg _ _ | .sneReg _ _ | .skp _
  | .sknp _ => true
  | .cls | .ldImm _ _ | .addImm _ _ | .ldReg _ _ | .orReg _ _ | .andReg _ _ | .xorReg _ _ | .addReg _ _
  | .subReg _ _ | .shr _ _ | .subnReg _ _ | .shl _ _ | .ldI _ | .rnd _ _ | .drw _ _ _ | .ldVxDT _
  | .ldVxK _ | .ldDT _ | .ldST _ | .addI _ | .ldF _ | .ldB _ | .ldMemVx _ | .ldVxMem _ => false

/-- The instructions with a general register as destination or with a flag (spec/42_alu.md R171 to R184,
spec/43_index_memory.md R206, spec/44_display.md R222, spec/45_keypad_timers.md R243, R244). -/
def writesRegs : Instr → Bool
  | .ldImm _ _ | .addImm _ _ | .ldReg _ _ | .orReg _ _ | .andReg _ _ | .xorReg _ _ | .addReg _ _
  | .subReg _ _ | .shr _ _ | .subnReg _ _ | .shl _ _ | .rnd _ _ | .drw _ _ _ | .ldVxDT _ | .ldVxK _
  | .ldVxMem _ => true
  | .cls | .ret | .jp _ | .call _ | .seImm _ _ | .sneImm _ _ | .seReg _ _ | .sneReg _ _ | .ldI _ | .jpV0 _
  | .skp _ | .sknp _ | .ldDT _ | .ldST _ | .addI _ | .ldF _ | .ldB _ | .ldMemVx _ => false

/-! ### What stays unchanged -/

/-- Every byte of memory reads as before. -/
def SameMemory (s t : State) : Prop := ∀ a, readByte t a = readByte s a

/-- Every byte of memory outside `n` bytes from `addr` on reads as before. -/
def SameMemoryOutside (addr n : Nat) (s t : State) : Prop :=
  ∀ a, a < addr ∨ addr + n ≤ a → readByte t a = readByte s a

/-- Every general register but the listed ones holds what it held. -/
def SameRegsBut (ws : List Reg) (s t : State) : Prop := ∀ r, r ∉ ws → getV t r = getV s r

/-- The whole effect is on the listed general registers: every other register, every byte of memory
and every other element of State (`PC`, `I`, stack, timers, display, keys, key wait, error
registers) is unchanged. -/
def ChangesOnlyRegs (ws : List Reg) (s t : State) : Prop :=
  SameRegsBut ws s t ∧ SameMemory s t ∧ t = { s with v := t.v }

/-- The whole effect is on `PC`. -/
def ChangesOnlyPc (s t : State) : Prop :=
  SameRegsBut [] s t ∧ SameMemory s t ∧ t = { s with pc := t.pc }

/-- The whole effect is on `I`. -/
def ChangesOnlyI (s t : State) : Prop :=
  SameRegsBut [] s t ∧ SameMemory s t ∧ t = { s with i := t.i }

/-- The whole effect is on `n` bytes of memory from `addr` on. -/
def ChangesOnlyMemory (addr n : Nat) (s t : State) : Prop :=
  SameRegsBut [] s t ∧ SameMemoryOutside addr n s t ∧ t = { s with mem := t.mem }

/-! ### Sprites -/

/-- Some sprite bit that is 1 addresses pixel (r, c), for a sprite of `n` rows at `I` drawn at column
`vx`, row `vy` (spec/44_display.md R221). -/
def Covers (s : State) (vx vy : Byte) (n : Nat) (r : Fin 32) (c : Fin 64) : Prop :=
  ∃ i j, i < n ∧ j < 8 ∧ (vy.toNat + i) % 32 = r.val ∧ (vx.toNat + j) % 64 = c.val ∧
    (readByte s (s.i.toNat + i)).getLsbD (7 - j) = true

/-! ### Key waits -/

/-- No key held at one sample is released at the next, along a list of samples that starts after
`prev` (spec/45_keypad_timers.md R243). -/
def noRelease : Word → List Word → Bool
  | _, [] => true
  | prev, k :: ks => decide (prev &&& ~~~ k = 0) && noRelease k ks

/-- The last sample of a list, or `prev` where there is none. -/
def lastSample : Word → List Word → Word
  | prev, [] => prev
  | _, k :: ks => lastSample k ks

end Sys2Proof
end

