-- ==== Sys2Proof/Certificates/Slice0/Obligations.lean ====
section
/-! DEFINITION. The statements for the provers, from the numbered rules of spec/. Each docstring names
the rules it formalises, and the spec's decision D<n> or the log entry where a clause rests on one. -/

open Sys2Proof Sys2Proof.Machine

/-! ### Encoding and decoding (spec/30_encoding.md) -/

/-- R90, R91, R105: decoding the bytes of an instruction, whatever bytes follow, gives it back with
every operand at every value, and takes 2 bytes. -/
def Obligations.DecodingAnEncodedInstructionGivesItBack : Prop :=
  ∀ (i : Instr) (rest : List Byte), decodeBytes (encodeBytes i ++ rest) = .ok (i, rest)

/-- R94, R105: a legal word is the encoding of the instruction it decodes to, so no bit of a legal word
is ignored. -/
def Obligations.EncodingADecodedWordGivesItBack : Prop :=
  ∀ (w : Word) (i : Instr), decode w = some i → encode i = w

/-- R105, R106: the decoder tree and the table of masks agree on every word, the table has 34 rows, and
no word matches two of them. -/
def Obligations.DecoderAgreesWithTheOpcodeTable : Prop :=
  opcodeTable.length = 34 ∧
  opcodeTable.Pairwise (fun r q => ∀ w, ¬(r.matchesWord w = true ∧ q.matchesWord w = true)) ∧
  ∀ (w : Word) (i : Instr),
    decode w = some i ↔ ∃ r ∈ opcodeTable, r.matchesWord w = true ∧ i = r.instr w

/-- R95: family 0 is selected by the whole word, and every other word of it is illegal. -/
def Obligations.FamilyZeroIsSelectedByTheWholeWord : Prop :=
  ∀ nnn : Addr, decode (wordNNN 0x0 nnn) =
    if nnn = 0x0E0 then some .cls else if nnn = 0x0EE then some .ret else none

/-- R96: family 8 is selected by n, and the other seven values of n are illegal. -/
def Obligations.FamilyEightIsSelectedByTheLowNibble : Prop :=
  ∀ x y : Reg,
    decode (wordXYN 0x8 x y 0x0) = some (.ldReg x y) ∧ decode (wordXYN 0x8 x y 0x1) = some (.orReg x y) ∧
    decode (wordXYN 0x8 x y 0x2) = some (.andReg x y) ∧ decode (wordXYN 0x8 x y 0x3) = some (.xorReg x y) ∧
    decode (wordXYN 0x8 x y 0x4) = some (.addReg x y) ∧ decode (wordXYN 0x8 x y 0x5) = some (.subReg x y) ∧
    decode (wordXYN 0x8 x y 0x6) = some (.shr x y) ∧ decode (wordXYN 0x8 x y 0x7) = some (.subnReg x y) ∧
    decode (wordXYN 0x8 x y 0xE) = some (.shl x y) ∧
    ∀ n : Nibble, n ∈ [0x8#4, 0x9#4, 0xA#4, 0xB#4, 0xC#4, 0xD#4, 0xF#4] → decode (wordXYN 0x8 x y n) = none

/-- R97, R98: families E and F are selected by kk, and every other value of kk (254 and 247 of them) is
illegal. Which timer transfer 0x07, 0x15 and 0x18 each are is the spec's decision D5 from general
knowledge, not its source's (log 16, PRESUMED). -/
def Obligations.FamiliesEAndFAreSelectedByTheLowByte : Prop :=
  ∀ (x : Reg) (kk : Byte),
    (decode (wordXKK 0xE x kk) =
      if kk = 0x9E then some (.skp x) else if kk = 0xA1 then some (.sknp x) else none) ∧
    (decode (wordXKK 0xF x kk) =
      if kk = 0x07 then some (.ldVxDT x) else if kk = 0x0A then some (.ldVxK x)
      else if kk = 0x15 then some (.ldDT x) else if kk = 0x18 then some (.ldST x)
      else if kk = 0x1E then some (.addI x) else if kk = 0x29 then some (.ldF x)
      else if kk = 0x33 then some (.ldB x) else if kk = 0x55 then some (.ldMemVx x)
      else if kk = 0x65 then some (.ldVxMem x) else none)

/-- Words written out from the table of R105 decode to their instructions: a sanity check. -/
def Obligations.WordsOfTheTableDecodeAsWrittenOut : Prop :=
  decode 0x00E0 = some .cls ∧ decode 0x1ABC = some (.jp 0xABC) ∧ decode 0x721E = some (.addImm 2 0x1E) ∧
  decode 0x8AB4 = some (.addReg 0xA 0xB) ∧ decode 0xA123 = some (.ldI 0x123) ∧
  decode 0xD125 = some (.drw 1 2 5) ∧ decode 0xE19E = some (.skp 1) ∧ decode 0xF20A = some (.ldVxK 2) ∧
  decode 0x0000 = none ∧ decode 0x5121 = none ∧ decode 0xF1FF = none

/-! ### Reset and host operations -/

/-- R40, R300: the values RESET leaves that the spec gives. `V`, `PC`, the display and the font are the
source's; `I`, `SP`, `DT`, `ST`, `DIRTY`, `KEYS`, `KW_STATE`, `RUNSTATE`, `ERR_KIND` and `snap_valid` are the
spec's decisions D1, D14, D28, D32 (log 8). Nothing is said of the unspecified elements (log 7). -/
def Obligations.ResetLeavesTheSpecifiedValues : Prop :=
  (∀ x, getV State.reset x = 0) ∧ State.reset.pc = 0x0200 ∧ (∀ r c, pixel State.reset.fb r c = false) ∧
  (∀ a (h : a < 80), readByte State.reset a = State.reset.params.font[a]) ∧
  State.reset.i = 0 ∧ State.reset.sp = 0 ∧ State.reset.dt = 0 ∧ State.reset.st = 0 ∧
  State.reset.dirty = false ∧ State.reset.keys = 0 ∧ State.reset.kwState = .idle ∧
  State.reset.runState = .idle ∧ State.reset.errKind = .none ∧ State.reset.snapValid = false

/-- R132: RESET, in whatever state, puts every element at its reset value, the font bytes of the
parameter included, whatever memory held. A RESET input is the spec's decision D1. The model's choices
here: `STACK`, `IR`, `KW_PREV`, `ERR_WORD`, `ERR_PC` and `SNAP`, which R40 leaves unspecified, take the zeros
of log 7 (DESIGN CHOICE), and the model's own fields stay, but for the count of RESETs and the drawn byte
(log 6, log 9, log 20). The values of `I`, `SP`, `DT`, `ST`, `DIRTY`, `KEYS`, `KW_STATE`, `RUNSTATE`, `ERR_KIND`
and `snap_valid` are the spec's decisions D1, D14, D28, D32 (log 8). -/
def Obligations.ResetEventRestoresTheResetState : Prop :=
  ∀ (s : State) (es : List Event), s.events = .reset :: es →
    ∃ t, step s = .next t ∧
      t = { State.reset with
        events := es, eventNo := s.eventNo, resets := s.resets + 1, params := s.params } ∧
      ∀ a (h : a < 80), readByte t a = s.params.font[a]

/-- R133: RUN starts the run loop if it was `Idle`, whether or not a LOAD succeeded, and does nothing in
any other state (R122). -/
def Obligations.RunStartsTheRunLoopFromIdle : Prop :=
  ∀ (s : State) (es : List Event), s.events = .run :: es →
    step s = .next { s with
      events := es, runState := if s.runState = .idle then .running else s.runState }

/-- R70: a LOAD of at most 3584 bytes in `Idle` writes the image from 0x200 on, and no other byte, and
clears `ERR_KIND` (D36). That `ERR_WORD` and `ERR_PC`, which R261 calls unspecified then, keep what they held
is the model's reading (log 12, DEDUCED). -/
def Obligations.LoadWritesTheImageAt0x200 : Prop :=
  ∀ (s : State) (es : List Event) (bytes : List Byte),
    s.events = .load bytes :: es → s.runState = .idle → bytes.length ≤ 3584 →
    ∃ t, step s = .next t ∧ (∀ k (h : k < bytes.length), readByte t (0x200 + k) = bytes[k]) ∧
      SameMemoryOutside 0x200 bytes.length s t ∧ t.errKind = .none ∧
      t = { s with mem := t.mem, errKind := t.errKind, events := es }

/-- R70, R267: a LOAD of more than 3584 bytes in `Idle` writes nothing and reports ProgramTooLarge, and
`RUNSTATE` stays `Idle`; a LOAD in another state is ignored (D36, log 13). That `ERR_WORD` and `ERR_PC`, which
R261 calls unspecified at ProgramTooLarge, keep what they held is the model's reading (log 12, DEDUCED). -/
def Obligations.TooLargeOrMistimedLoadWritesNothing : Prop :=
  ∀ (s : State) (es : List Event) (bytes : List Byte), s.events = .load bytes :: es →
    (s.runState = .idle → 3584 < bytes.length →
      step s = .next { s with errKind := .programTooLarge, events := es }) ∧
    (s.runState ≠ .idle → step s = .next { s with events := es })

/-! ### The Cycle, the Tick and fault entry -/

/-- R123 to R127: a Cycle that is not a poll of a blocked key wait samples the keys, fetches the
big-endian word at `PC` (R62), advances `PC` by 2 and is the execution of the decoded instruction. The
model's choices: the strobe `snap_valid` of an earlier Tick ends when the Cycle starts (log 10), and the
Cycle's drawn byte is held in `rndIn` (log 9). -/
def Obligations.CycleExecutesTheInstructionAtPc : Prop :=
  ∀ (s : State) (k : Word) (d : Byte) (es : List Event) (i : Instr) (rest : List Byte),
    s.events = .cycle k d :: es → s.runState = .running → s.kwState = .idle → s.pc.toNat ≤ 0xFFE →
    decodeBytes [readByte s s.pc.toNat, readByte s (s.pc.toNat + 1)] = .ok (i, rest) →
    step s = exec i { s with
      events := es, keys := k, rndIn := d, snapValid := false,
      ir := wordOfBytes (readByte s s.pc.toNat) (readByte s (s.pc.toNat + 1)), pc := s.pc + 2 }

/-- R128: while the key wait is armed a Cycle samples the keys, does not fetch, and executes the
instruction in `IR` again with `PC` as it stands. The model's choices: `snap_valid` ends when the Cycle
starts (log 10), and the Cycle's drawn byte is held in `rndIn` (log 9). -/
def Obligations.BlockedCycleExecutesIrWithoutFetching : Prop :=
  ∀ (s : State) (k : Word) (d : Byte) (es : List Event) (i : Instr),
    s.events = .cycle k d :: es → s.runState = .running → s.kwState = .armed → decode s.ir = some i →
    step s = exec i { s with events := es, keys := k, rndIn := d, snapValid := false }

/-- R100, R262: a fetched word that is no instruction raises IllegalInstruction with the word and the
address it was fetched from, and is not skipped. That `PC` and `IR` keep the fetch is D13 (R266). The
model's choices: `snap_valid` ends when the Cycle starts (log 10), and the Cycle's drawn byte is held in
`rndIn` (log 9). -/
def Obligations.IllegalWordRaisesIllegalInstruction : Prop :=
  ∀ (s : State) (k : Word) (d : Byte) (es : List Event) (w : Word),
    s.events = .cycle k d :: es → s.runState = .running → s.kwState = .idle → s.pc.toNat ≤ 0xFFE →
    w = wordOfBytes (readByte s s.pc.toNat) (readByte s (s.pc.toNat + 1)) → decode w = none →
    step s = .next { s with
      events := es, keys := k, rndIn := d, snapValid := false, ir := w, pc := s.pc + 2,
      errKind := .illegalInstruction, errWord := w, errPc := s.pc, runState := .halted }

/-- R125, R265, R266: a fetch with `PC` > 0xFFE raises MemoryFault, `PC` not advanced, `ERR_PC` = `PC` (the
spec's decision D12). The model's choices: `ERR_WORD` takes `IR`, the previous word, as R266 writes it
(log 11), `snap_valid` ends when the Cycle starts (log 10), and the Cycle's drawn byte is held in `rndIn`
(log 9). -/
def Obligations.FetchBeyondMemoryRaisesMemoryFault : Prop :=
  ∀ (s : State) (k : Word) (d : Byte) (es : List Event),
    s.events = .cycle k d :: es → s.runState = .running → s.kwState = .idle → 0xFFE < s.pc.toNat →
    step s = .next { s with
      events := es, keys := k, rndIn := d, snapValid := false,
      errKind := .memoryFault, errWord := s.ir, errPc := s.pc, runState := .halted }

/-- R268: in `Halted` nothing changes, whatever the event, until RESET. -/
def Obligations.HaltedMachineChangesOnlyOnReset : Prop :=
  ∀ (s : State) (e : Event) (es : List Event),
    s.events = e :: es → s.runState = .halted → e ≠ .reset → step s = .next { s with events := es }

/-- R122: no Cycle and no Tick happens in `Idle` or `Stopped`, and from `Stopped` only RESET leads out (the
spec's decision D15). -/
def Obligations.IdleAndStoppedMachinesDoNotRun : Prop :=
  ∀ (s : State) (e : Event) (es : List Event), s.events = e :: es →
    (s.runState = .idle → ((∃ k d, e = .cycle k d) ∨ ∃ b, e = .tick b) →
      step s = .next { s with events := es }) ∧
    (s.runState = .stopped → e ≠ .reset → step s = .next { s with events := es })

/-- R130, R131, R226: a Tick decrements each timer that is not 0, publishes the frame exactly if it is
dirty, stops the run if `stop_in` is 1, and changes nothing else. The order within it is D33. That
`snap_valid` is 0 after a Tick that publishes nothing is the model's choice (log 10). -/
def Obligations.TickDecrementsPublishesAndSamplesStop : Prop :=
  ∀ (s : State) (b : Bool) (es : List Event), s.events = .tick b :: es → s.runState = .running →
    ∃ t, step s = .next t ∧ t.dt.toNat = s.dt.toNat - 1 ∧ t.st.toNat = s.st.toNat - 1 ∧
      t.snap = (if s.dirty = true then s.fb else s.snap) ∧ t.snapValid = s.dirty ∧ t.dirty = false ∧
      t.runState = (if b = true then .stopped else .running) ∧
      SameRegsBut [] s t ∧ SameMemory s t ∧
      t = { s with
        dt := t.dt, st := t.st, snap := t.snap, snapValid := t.snapValid, dirty := t.dirty,
        runState := t.runState, events := es }

/-- R247: after n Ticks with nothing else in between the timers hold max(v - n, 0): they never
underflow. Nothing else changed but the frame published (`SNAP`, `snap_valid`, `DIRTY`, R130). -/
def Obligations.TimersReachZeroAndStayThere : Prop :=
  ∀ (n : Nat) (s : State) (es : List Event),
    s.events = List.replicate n (.tick false) ++ es → s.runState = .running →
    ∃ t : State, Host.Core.run core n s = .next t ∧
      t.dt.toNat = s.dt.toNat - n ∧ t.st.toNat = s.st.toNat - n ∧ t.runState = .running ∧
      SameRegsBut [] s t ∧ SameMemory s t ∧ t.pc = s.pc ∧ t.events = es ∧
      t = { s with
        dt := t.dt, st := t.st, snap := t.snap, snapValid := t.snapValid, dirty := t.dirty,
        events := t.events }

/-- R122: `RUNSTATE` changes only by RESET to `Idle`, by RUN from `Idle` to `Running`, by a fault in a Cycle
from `Running` to `Halted` and by a stopping Tick from `Running` to `Stopped` (the spec's decision D15). -/
def Obligations.RunStateChangesOnlyAsListed : Prop :=
  ∀ s t : State, step s = .next t →
    t.runState = s.runState ∨
    ((takeEvent s).1 = .reset ∧ t.runState = .idle) ∨
    ((takeEvent s).1 = .run ∧ s.runState = .idle ∧ t.runState = .running) ∨
    ((∃ k d, (takeEvent s).1 = .cycle k d) ∧ s.runState = .running ∧ t.runState = .halted ∧
      isRunTimeFault t.errKind = true) ∨
    ((takeEvent s).1 = .tick true ∧ s.runState = .running ∧ t.runState = .stopped)

/-- R136, R267: the error registers change only at fault entry, at a LOAD in `Idle` (which moves `ERR_KIND`
alone) and at RESET. R136 names a failed LOAD only; that a successful one clears `ERR_KIND` is R70 and
R267 (the spec's decision D36), and that `ERR_WORD` and `ERR_PC` then stay is log 12. -/
def Obligations.ErrorRegistersChangeOnlyAtFaultLoadOrReset : Prop :=
  ∀ s t : State, step s = .next t →
    (t.errKind = s.errKind ∧ t.errWord = s.errWord ∧ t.errPc = s.errPc) ∨
    (takeEvent s).1 = .reset ∨
    ((∃ bs, (takeEvent s).1 = .load bs) ∧ s.runState = .idle ∧ t.errWord = s.errWord ∧ t.errPc = s.errPc) ∨
    (s.runState = .running ∧ t.runState = .halted)

/-- R124, R30: after any Cycle that is performed `KEYS` is the `keys_in` of that Cycle, which the execution
of the instruction leaves as sampled, also in a Cycle of a key wait (the spec's decision D26, log 19). Of the
other events RESET alone writes `KEYS`, with the 0 of R40 (the spec's decision D28, log 8), and a Cycle
outside `Running` does not (R122, log 13). -/
def Obligations.KeysAreWrittenOnlyBySampling : Prop :=
  ∀ s t : State, step s = .next t →
    match (takeEvent s).1 with
    | .cycle k _ => t.keys = if s.runState = .running then k else s.keys
    | .reset => t.keys = 0
    | _ => t.keys = s.keys

/-- R263 to R266, R269: an instruction has at most one fault, its check is made before anything is
written, and fault entry changes the error registers and `RUNSTATE` alone; where the check passes the
machine does not halt. That the fetch advance stays is D13, the zero-length case of DRW is D16. -/
def Obligations.InstructionFaultsExactlyWhenItsCheckFails : Prop :=
  ∀ (i : Instr) (s : State),
    (∀ k, faultOf i s = some k → exec i s = .next { s with
      errKind := k, errWord := s.ir, errPc := s.pc - 2, runState := .halted }) ∧
    (faultOf i s = none → ∃ t, exec i s = .next t ∧ t.runState = s.runState ∧ t.errKind = s.errKind ∧
      t.errWord = s.errWord ∧ t.errPc = s.errPc)

/-- The model's own reading (log 1, DEDUCED) of R260 and R266, by which a fault is an entry into `Halted` and
nothing else: every step, whatever the state and the event, answers a next state, and none ends in a stop
of the model. -/
def Obligations.EveryStepAnswersANextState : Prop := ∀ s : State, ∃ t, step s = .next t

/-- R43, R261: the codes of the status outputs (the spec's decisions D14 and D43). -/
def Obligations.StatusCodesAreAsTabulated : Prop :=
  runStateCode .idle = 0 ∧ runStateCode .running = 1 ∧ runStateCode .halted = 2 ∧
  runStateCode .stopped = 3 ∧ errKindCode .none = 0 ∧ errKindCode .illegalInstruction = 1 ∧
  errKindCode .stackOverflow = 2 ∧ errKindCode .stackUnderflow = 3 ∧ errKindCode .memoryFault = 4 ∧
  errKindCode .programTooLarge = 5

/-! ### Invariants and whole-machine rules -/

/-- R26, R35, R60, R260: from every state that meets the invariant a step leads to a state that meets it:
canonical memory inside 4096 bytes, `Armed` only on an `LD Vx, K`, `PC` at most 0x10FE, stack entries at
most 0x1000, `Halted` exactly while `ERR_KIND` is a run-time fault. -/
def Obligations.EveryStepKeepsTheInvariant : Prop :=
  ∀ s t : State, Inv s → step s = .next t → Inv t

/-- The invariant holds at reset. -/
def Obligations.ResetMeetsTheInvariant : Prop := Inv State.reset

/-- R39, R6: `SHIFT_SRC` and `FONT` are parameters: no step changes them (log 4, log 5). -/
def Obligations.NoStepChangesTheParameters : Prop :=
  ∀ s t : State, step s = .next t → t.params = s.params

/-- R20, column "written by", for the instructions, one clause a row: `V` by the instructions with a
register destination or a flag, `PC` by JP, CALL, RET, JP V0 and the skips (R25), `STACK` by CALL, `SP` by
CALL and RET, `I` by LD I, ADD I and LD F, the display by CLS and DRW, memory by LD B and LD [I], each timer
by its own LD, the key wait by LD Vx, K, `RUNSTATE` and the error registers by fault entry, and `KEYS`,
`IR`, `SNAP` and `snap_valid` by no instruction. Which timer an LD writes is D5 (log 16). -/
def Obligations.EachElementIsWrittenOnlyByItsInstructions : Prop :=
  ∀ (i : Instr) (s t : State), exec i s = .next t →
    (writesRegs i = false → t.v = s.v) ∧ (writesPc i = false → t.pc = s.pc) ∧
    ((∀ nnn, i ≠ .call nnn) → t.stack = s.stack) ∧
    ((∀ nnn, i ≠ .call nnn) → i ≠ .ret → t.sp = s.sp) ∧
    ((∀ nnn, i ≠ .ldI nnn) → (∀ x, i ≠ .addI x) → (∀ x, i ≠ .ldF x) → t.i = s.i) ∧
    (i ≠ .cls → (∀ x y n, i ≠ .drw x y n) → t.fb = s.fb ∧ t.dirty = s.dirty) ∧
    ((∀ x, i ≠ .ldB x) → (∀ x, i ≠ .ldMemVx x) → SameMemory s t ∧ t.mem = s.mem) ∧
    ((∀ x, i ≠ .ldDT x) → t.dt = s.dt) ∧ ((∀ x, i ≠ .ldST x) → t.st = s.st) ∧
    ((∀ x, i ≠ .ldVxK x) → t.kwState = s.kwState ∧ t.kwPrev = s.kwPrev) ∧
    (faultOf i s = none → t.runState = s.runState ∧ t.errKind = s.errKind ∧ t.errWord = s.errWord ∧
      t.errPc = s.errPc) ∧
    t.keys = s.keys ∧ t.ir = s.ir ∧ t.snap = s.snap ∧ t.snapValid = s.snapValid

/-- R22: `VF` changes only by the six flag writers or as an ordinary destination, and as a flag it holds 0
or 1 (that LD, OR, AND and XOR leave it alone is the spec's decision D8). -/
def Obligations.FlagRegisterIsWrittenOnlyByFlagWriters : Prop :=
  ∀ (i : Instr) (s t : State), exec i s = .next t →
    match i with
    | .addReg _ _ | .subReg _ _ | .shr _ _ | .subnReg _ _ | .shl _ _ => getV t VF = 0 ∨ getV t VF = 1
    | .drw _ _ _ => (getV t VF = 0 ∨ getV t VF = 1) ∨ (t.runState = .halted ∧ getV t VF = getV s VF)
    | .ldImm x _ | .addImm x _ | .ldReg x _ | .orReg x _ | .andReg x _ | .xorReg x _ | .rnd x _
    | .ldVxDT x | .ldVxK x | .ldVxMem x => x ≠ VF → getV t VF = getV s VF
    | _ => getV t VF = getV s VF

/-- R20, R29, R37, R226: no instruction reads `ST`, `DIRTY`, `SNAP`, `snap_valid` or an error register: two
states that differ there alone go to states that differ there alone. -/
def Obligations.HiddenElementsDoNotFlowIntoTheProgram : Prop :=
  ∀ (i : Instr) (s s' : State),
    s' = { s with
      st := s'.st, dirty := s'.dirty, snap := s'.snap, snapValid := s'.snapValid,
      errKind := s'.errKind, errWord := s'.errWord, errPc := s'.errPc } →
    ∃ t t', exec i s = .next t ∧ exec i s' = .next t' ∧
      t' = { t with
        st := t'.st, dirty := t'.dirty, snap := t'.snap, snapValid := t'.snapValid,
        errKind := t'.errKind, errWord := t'.errWord, errPc := t'.errPc }

/-! ### Control transfer (spec/41_control_flow.md) -/

/-- R152: `JP nnn`. -/
def Obligations.JumpSetsPcToTheAddress : Prop :=
  ∀ (nnn : Addr) (s : State), decode (wordNNN 0x1 nnn) = some (.jp nnn) ∧
    ∃ t, exec (.jp nnn) s = .next t ∧ t.pc.toNat = nnn.toNat ∧ ChangesOnlyPc s t

/-- R153: `CALL nnn` with `SP` < 16 pushes the advanced `PC`, the address of the next instruction, and jumps;
at `SP` = 16 it raises StackOverflow and writes nothing else (R263). -/
def Obligations.CallPushesTheReturnAddressAndJumps : Prop :=
  ∀ (nnn : Addr) (s : State), decode (wordNNN 0x2 nnn) = some (.call nnn) ∧
    (s.sp.val < 16 → ∃ t, exec (.call nnn) s = .next t ∧
      t.pc.toNat = nnn.toNat ∧ t.sp.val = s.sp.val + 1 ∧
      (∀ k : Fin 16, t.stack[k] = if k.val = s.sp.val then s.pc else s.stack[k]) ∧
      SameRegsBut [] s t ∧ SameMemory s t ∧
      t = { s with pc := t.pc, sp := t.sp, stack := t.stack }) ∧
    (s.sp.val = 16 → exec (.call nnn) s = .next { s with
      errKind := .stackOverflow, errWord := s.ir, errPc := s.pc - 2, runState := .halted })

/-- R151: `RET` with `SP` > 0 pops `PC`, and the popped entry keeps its value; at `SP` = 0 it raises
StackUnderflow and writes nothing else (R264). -/
def Obligations.ReturnPopsPc : Prop :=
  ∀ s : State, decode 0x00EE = some .ret ∧
    (∀ k : Fin 16, s.sp.val = k.val + 1 → ∃ t, exec .ret s = .next t ∧
      t.pc = s.stack[k] ∧ t.sp.val = k.val ∧
      SameRegsBut [] s t ∧ SameMemory s t ∧ t = { s with pc := t.pc, sp := t.sp }) ∧
    (s.sp.val = 0 → exec .ret s = .next { s with
      errKind := .stackUnderflow, errWord := s.ir, errPc := s.pc - 2, runState := .halted })

/-- R151, R153: a CALL followed at once by a RET comes back to the instruction after the CALL with the same
`SP`, and no entry in use before is disturbed. -/
def Obligations.ReturnAfterCallRestoresPc : Prop :=
  ∀ (nnn : Addr) (s : State), s.sp.val < 16 →
    ∃ t u, exec (.call nnn) s = .next t ∧ exec .ret t = .next u ∧ u.pc = s.pc ∧ u.sp = s.sp ∧
      (∀ k : Fin 16, k.val < s.sp.val → u.stack[k] = s.stack[k]) ∧
      SameRegsBut [] s u ∧ SameMemory s u

/-- R154, R155: `SE Vx, kk` and `SNE Vx, kk`. -/
def Obligations.SkipsOnAnImmediateCompareForEquality : Prop :=
  ∀ (x : Reg) (kk : Byte) (s : State),
    decode (wordXKK 0x3 x kk) = some (.seImm x kk) ∧ decode (wordXKK 0x4 x kk) = some (.sneImm x kk) ∧
    (∃ t, exec (.seImm x kk) s = .next t ∧
      t.pc = (if getV s x = kk then s.pc + 2 else s.pc) ∧ ChangesOnlyPc s t) ∧
    (∃ t, exec (.sneImm x kk) s = .next t ∧
      t.pc = (if getV s x ≠ kk then s.pc + 2 else s.pc) ∧ ChangesOnlyPc s t)

/-- R156, R157, R99: `SE Vx, Vy` and `SNE Vx, Vy`, illegal with n other than 0 (the spec's decision D9). -/
def Obligations.SkipsOnRegistersCompareForEquality : Prop :=
  ∀ (x y : Reg) (s : State),
    (∀ n : Nibble, decode (wordXYN 0x5 x y n) = (if n = 0 then some (.seReg x y) else none) ∧
      decode (wordXYN 0x9 x y n) = if n = 0 then some (.sneReg x y) else none) ∧
    (∃ t, exec (.seReg x y) s = .next t ∧
      t.pc = (if getV s x = getV s y then s.pc + 2 else s.pc) ∧ ChangesOnlyPc s t) ∧
    (∃ t, exec (.sneReg x y) s = .next t ∧
      t.pc = (if getV s x ≠ getV s y then s.pc + 2 else s.pc) ∧ ChangesOnlyPc s t)

/-- R158: `JP V0, nnn`: the sum is not reduced to 12 bits, is at most 0x10FE, and uses register 0. -/
def Obligations.JumpWithOffsetAddsRegisterZero : Prop :=
  ∀ (nnn : Addr) (s : State), decode (wordNNN 0xB nnn) = some (.jpV0 nnn) ∧
    ∃ t, exec (.jpV0 nnn) s = .next t ∧ t.pc.toNat = nnn.toNat + (getV s 0).toNat ∧
      t.pc.toNat ≤ 0x10FE ∧ ChangesOnlyPc s t

/-! ### Arithmetic and logic (spec/42_alu.md) -/

/-- R171, R172: `LD Vx, kk`, and `ADD Vx, kk`, which wraps modulo 256 and writes no flag. -/
def Obligations.ImmediateLoadAndAddWriteNoFlag : Prop :=
  ∀ (x : Reg) (kk : Byte) (s : State),
    decode (wordXKK 0x6 x kk) = some (.ldImm x kk) ∧ decode (wordXKK 0x7 x kk) = some (.addImm x kk) ∧
    (∃ t, exec (.ldImm x kk) s = .next t ∧ getV t x = kk ∧ ChangesOnlyRegs [x] s t) ∧
    (∃ t, exec (.addImm x kk) s = .next t ∧
      (getV t x).toNat = ((getV s x).toNat + kk.toNat) % 256 ∧ ChangesOnlyRegs [x] s t)

/-- R173 to R176: the copy and the logic operations leave `VF` alone unless it is the destination (the
spec's decision D8). -/
def Obligations.CopyAndLogicWriteOnlyTheDestination : Prop :=
  ∀ (x y : Reg) (s : State),
    (∃ t, exec (.ldReg x y) s = .next t ∧ getV t x = getV s y ∧ ChangesOnlyRegs [x] s t) ∧
    (∃ t, exec (.orReg x y) s = .next t ∧ getV t x = getV s x ||| getV s y ∧ ChangesOnlyRegs [x] s t) ∧
    (∃ t, exec (.andReg x y) s = .next t ∧ getV t x = getV s x &&& getV s y ∧ ChangesOnlyRegs [x] s t) ∧
    (∃ t, exec (.xorReg x y) s = .next t ∧ getV t x = getV s x ^^^ getV s y ∧ ChangesOnlyRegs [x] s t)

/-- R177: `ADD Vx, Vy`: the sum modulo 256 and the carry; with x = 15 only the carry survives. -/
def Obligations.AddSetsTheCarryFlag : Prop :=
  ∀ (x y : Reg) (s : State), decode (wordXYN 0x8 x y 0x4) = some (.addReg x y) ∧
    ∃ t, exec (.addReg x y) s = .next t ∧
      (x ≠ VF → (getV t x).toNat = ((getV s x).toNat + (getV s y).toNat) % 256) ∧
      (getV t VF).toNat = (if (getV s x).toNat + (getV s y).toNat > 255 then 1 else 0) ∧
      ChangesOnlyRegs [x, VF] s t

/-- R178, R180: `SUB Vx, Vy` and `SUBN Vx, Vy`: the difference modulo 256 and NOT borrow, which is 1 at
equality; with x = 15 only the flag survives. -/
def Obligations.SubtractionsSetTheNotBorrowFlag : Prop :=
  ∀ (x y : Reg) (s : State),
    decode (wordXYN 0x8 x y 0x5) = some (.subReg x y) ∧ decode (wordXYN 0x8 x y 0x7) = some (.subnReg x y) ∧
    (∃ t, exec (.subReg x y) s = .next t ∧
      (x ≠ VF → ((getV t x).toNat : Int) = ((getV s x).toNat - (getV s y).toNat : Int) % 256) ∧
      (getV t VF).toNat = (if (getV s x).toNat ≥ (getV s y).toNat then 1 else 0) ∧
      ChangesOnlyRegs [x, VF] s t) ∧
    (∃ t, exec (.subnReg x y) s = .next t ∧
      (x ≠ VF → ((getV t x).toNat : Int) = ((getV s y).toNat - (getV s x).toNat : Int) % 256) ∧
      (getV t VF).toNat = (if (getV s y).toNat ≥ (getV s x).toNat then 1 else 0) ∧
      ChangesOnlyRegs [x, VF] s t)

/-- R179, R181: the shifts, for both values of `SHIFT_SRC` (the spec's decision D6): the operand halved or
doubled modulo 256, and the bit shifted out; with x = 15 only the flag survives. -/
def Obligations.ShiftsSetTheShiftedOutBit : Prop :=
  ∀ (x y : Reg) (s : State) (a : Byte),
    a = (match s.params.shiftSrc with | .vx => getV s x | .vy => getV s y) →
    (∃ t, exec (.shr x y) s = .next t ∧ (x ≠ VF → (getV t x).toNat = a.toNat / 2) ∧
      (getV t VF).toNat = a.toNat % 2 ∧ ChangesOnlyRegs [x, VF] s t) ∧
    (∃ t, exec (.shl x y) s = .next t ∧ (x ≠ VF → (getV t x).toNat = a.toNat * 2 % 256) ∧
      (getV t VF).toNat = a.toNat / 128 ∧ ChangesOnlyRegs [x, VF] s t)

/-- R184: `RND Vx, kk`: the byte drawn for the Cycle, any byte, masked with kk (log 9). -/
def Obligations.RandomMasksTheDrawnByte : Prop :=
  ∀ (x : Reg) (kk : Byte) (s : State), decode (wordXKK 0xC x kk) = some (.rnd x kk) ∧
    (∃ t, exec (.rnd x kk) s = .next t ∧ getV t x = s.rndIn &&& kk ∧ ChangesOnlyRegs [x] s t) ∧
    ∀ (k : Word) (d : Byte), ∃ t, exec (.rnd x kk) (sampleInputs k d s) = .next t ∧ getV t x = d &&& kk

/-! ### Address register and memory (spec/43_index_memory.md) -/

/-- R201: `LD I, nnn`: the upper 4 bits of `I` become 0. -/
def Obligations.LoadAddressRegisterSetsI : Prop :=
  ∀ (nnn : Addr) (s : State), decode (wordNNN 0xA nnn) = some (.ldI nnn) ∧
    ∃ t, exec (.ldI nnn) s = .next t ∧ t.i.toNat = nnn.toNat ∧ ChangesOnlyI s t

/-- R202, R203: `ADD I, Vx` modulo 65536 with no flag, and `LD F, Vx`, five times the whole of `V[x]` (the
spec's decisions D17 and D40). -/
def Obligations.AddToIAndDigitAddressSetI : Prop :=
  ∀ (x : Reg) (s : State),
    (∃ t, exec (.addI x) s = .next t ∧ t.i.toNat = (s.i.toNat + (getV s x).toNat) % 65536 ∧
      ChangesOnlyI s t) ∧
    (∃ t, exec (.ldF x) s = .next t ∧ t.i.toNat = 5 * (getV s x).toNat ∧ ChangesOnlyI s t)

/-- R204: `LD B, Vx` writes the three decimal digits at I, I + 1, I + 2; when I > 0xFFD it raises
MemoryFault and writes no byte. -/
def Obligations.StoreBcdWritesThreeDigits : Prop :=
  ∀ (x : Reg) (s : State), decode (wordXKK 0xF x 0x33) = some (.ldB x) ∧
    (s.i.toNat ≤ 0xFFD → ∃ t, exec (.ldB x) s = .next t ∧
      (readByte t s.i.toNat).toNat = (getV s x).toNat / 100 ∧
      (readByte t (s.i.toNat + 1)).toNat = (getV s x).toNat / 10 % 10 ∧
      (readByte t (s.i.toNat + 2)).toNat = (getV s x).toNat % 10 ∧
      ChangesOnlyMemory (baseAddr s) 3 s t) ∧
    (0xFFD < s.i.toNat → exec (.ldB x) s = .next { s with
      errKind := .memoryFault, errWord := s.ir, errPc := s.pc - 2, runState := .halted })

/-- R205: `LD [I], Vx` stores `V[0]`..`V[x]` at ascending addresses from I on and leaves `I` alone (the spec's
decision D18); when I + x > 0xFFF it raises MemoryFault and writes no byte. -/
def Obligations.BlockStoreWritesTheRegisters : Prop :=
  ∀ (x : Reg) (s : State), decode (wordXKK 0xF x 0x55) = some (.ldMemVx x) ∧
    (s.i.toNat + x.toNat ≤ 0xFFF → ∃ t, exec (.ldMemVx x) s = .next t ∧
      (∀ r : Reg, r.toNat ≤ x.toNat → readByte t (s.i.toNat + r.toNat) = getV s r) ∧
      ChangesOnlyMemory (baseAddr s) (x.toNat + 1) s t) ∧
    (0xFFF < s.i.toNat + x.toNat → exec (.ldMemVx x) s = .next { s with
      errKind := .memoryFault, errWord := s.ir, errPc := s.pc - 2, runState := .halted })

/-- R206: `LD Vx, [I]` loads `V[0]`..`V[x]` from ascending addresses from I on and nothing else; when
I + x > 0xFFF it raises MemoryFault and writes no register. -/
def Obligations.BlockLoadReadsTheRegisters : Prop :=
  ∀ (x : Reg) (s : State), decode (wordXKK 0xF x 0x65) = some (.ldVxMem x) ∧
    (s.i.toNat + x.toNat ≤ 0xFFF → ∃ t, exec (.ldVxMem x) s = .next t ∧
      (∀ r : Reg, getV t r =
        if r.toNat ≤ x.toNat then readByte s (s.i.toNat + r.toNat) else getV s r) ∧
      SameMemory s t ∧ t = { s with v := t.v }) ∧
    (0xFFF < s.i.toNat + x.toNat → exec (.ldVxMem x) s = .next { s with
      errKind := .memoryFault, errWord := s.ir, errPc := s.pc - 2, runState := .halted })

/-! ### Display (spec/44_display.md) -/

/-- R220: `CLS` turns every pixel off and sets `DIRTY`, also on a blank display. -/
def Obligations.ClearTurnsEveryPixelOff : Prop :=
  ∀ s : State, decode 0x00E0 = some .cls ∧
    ∃ t, exec .cls s = .next t ∧ (∀ r c, pixel t.fb r c = false) ∧ t.dirty = true ∧
      SameRegsBut [] s t ∧ SameMemory s t ∧ t = { s with fb := t.fb, dirty := t.dirty }

/-- R221, R222, R223: `DRW Vx, Vy, n` flips exactly the pixels that a 1 bit of the sprite addresses, `VF` is 1
exactly when one of them was on, `DIRTY` is set, and nothing else changes; x or y = 15 uses the old `VF`.
A sprite that reaches beyond 0xFFF raises MemoryFault, and then no pixel, no `VF` and no `DIRTY` changes
(R67). The wraps, the collision and n = 0 are the spec's decisions D19 to D23. -/
def Obligations.DrawFlipsExactlyTheCoveredPixels : Prop :=
  ∀ (x y : Reg) (n : Nibble) (s : State),
    (n = 0 ∨ s.i.toNat + n.toNat ≤ 0x1000 → ∃ t, exec (.drw x y n) s = .next t ∧
      (∀ r c, (Covers s (getV s x) (getV s y) n.toNat r c → pixel t.fb r c = !pixel s.fb r c) ∧
        (¬Covers s (getV s x) (getV s y) n.toNat r c → pixel t.fb r c = pixel s.fb r c)) ∧
      (getV t VF = 0 ∨ getV t VF = 1) ∧
      (getV t VF = 1 ↔ ∃ r c, Covers s (getV s x) (getV s y) n.toNat r c ∧ pixel s.fb r c = true) ∧
      t.dirty = true ∧ SameRegsBut [VF] s t ∧ SameMemory s t ∧
      t = { s with v := t.v, fb := t.fb, dirty := t.dirty }) ∧
    (0 < n.toNat → 0x1000 < s.i.toNat + n.toNat → exec (.drw x y n) s = .next { s with
      errKind := .memoryFault, errWord := s.ir, errPc := s.pc - 2, runState := .halted })

/-- R225: drawing the same sprite at the same place twice restores the display; the second `VF` is 1
exactly when the sprite covered a pixel that was off at first. -/
def Obligations.DrawingTwiceRestoresTheDisplay : Prop :=
  ∀ (x y : Reg) (n : Nibble) (s t u : State), n = 0 ∨ s.i.toNat + n.toNat ≤ 0x1000 →
    exec (.drw x y n) s = .next t → u = { t with v := u.v } → getV u x = getV s x → getV u y = getV s y →
    ∃ w, exec (.drw x y n) u = .next w ∧ w.fb = s.fb ∧
      (getV w VF = 1 ↔ ∃ r c, Covers s (getV s x) (getV s y) n.toNat r c ∧ pixel s.fb r c = false)

/-- R224: the draw on pixels is the draw on packed bytes: the sprite byte shifted right by vx mod 8 onto
byte b0 of its row, and what spills shifted onto the next byte of the same row, wrapping; the collision
is an old byte ANDed with its mask being non-zero (the spec's decision D22). -/
def Obligations.PackedBytesDrawAsThePixelsDo : Prop :=
  ∀ (f : FrameBuf) (vx vy : Byte) (sprite : List Byte), sprite.length ≤ 15 →
    ∃ mask : Fin 32 → Fin 8 → Byte,
      (∀ i (h : i < sprite.length) (b : Fin 8), mask (spriteRow vy i) b =
        if b.val = vx.toNat % 64 / 8 then sprite[i] >>> (vx.toNat % 8)
        else if vx.toNat % 8 ≠ 0 ∧ b.val = (vx.toNat % 64 / 8 + 1) % 8
        then sprite[i] <<< (8 - vx.toNat % 8) else 0) ∧
      (∀ r, (∀ i < sprite.length, spriteRow vy i ≠ r) → ∀ b, mask r b = 0) ∧
      (∀ r b, packedByte (drawSprite f vx vy sprite).fb r b = packedByte f r b ^^^ mask r b) ∧
      ((drawSprite f vx vy sprite).hit = true ↔ ∃ r b, packedByte f r b &&& mask r b ≠ 0)

/-- R135: the renderer's grid is row-major with the top-left pixel first: element r * 64 + c is pixel
(r, c), and there are 2048 elements. -/
def Obligations.SnapshotGridIsRowMajor : Prop :=
  ∀ f : FrameBuf, (snapshotGrid f).length = 2048 ∧
    ∀ (r : Fin 32) (c : Fin 64), (snapshotGrid f)[r.val * 64 + c.val]? = some (pixel f r c)

/-! ### Keypad and timers (spec/45_keypad_timers.md) -/

/-- R240, R241, R242: `SKP Vx` and `SKNP Vx` test the sampled bit of key `V[x]`; a key number above 15 is not
pressed (the spec's decision D24). -/
def Obligations.KeySkipsTestTheSampledKey : Prop :=
  ∀ (x : Reg) (s : State) (down : Bool),
    (down = true ↔ (getV s x).toNat ≤ 15 ∧ s.keys.getLsbD (getV s x).toNat = true) →
    (∃ t, exec (.skp x) s = .next t ∧ t.pc = (if down = true then s.pc + 2 else s.pc) ∧
      ChangesOnlyPc s t) ∧
    (∃ t, exec (.sknp x) s = .next t ∧ t.pc = (if down = true then s.pc else s.pc + 2) ∧
      ChangesOnlyPc s t)

/-- R243: one Cycle of `LD Vx, K`: it arms; armed with no release it keeps waiting; armed with a release it
stores the least released key and completes. `PC` does not move. The least key and the two-Cycle
minimum are the spec's decision D25. -/
def Obligations.KeyWaitArmsWaitsAndCompletes : Prop :=
  ∀ (x : Reg) (s : State),
    (s.kwState = .idle → exec (.ldVxK x) s = .next { s with kwPrev := s.keys, kwState := .armed }) ∧
    (s.kwState = .armed → s.kwPrev &&& ~~~ s.keys = 0 →
      exec (.ldVxK x) s = .next { s with kwPrev := s.keys }) ∧
    (∀ k : Nat, s.kwState = .armed → k < 16 → (s.kwPrev &&& ~~~ s.keys).getLsbD k = true →
      (∀ j < k, (s.kwPrev &&& ~~~ s.keys).getLsbD j = false) →
      ∃ t, exec (.ldVxK x) s = .next t ∧ (getV t x).toNat = k ∧ t.kwState = .idle ∧
        SameRegsBut [x] s t ∧ SameMemory s t ∧ t = { s with v := t.v, kwState := .idle })

/-- R128, R243: a blocked `LD Vx, K` stays blocked over any run of Cycles in which no held key is released,
and completes on exactly the first Cycle that sees a release, storing the least released key, `PC`
unmoved (the spec's decision D25). -/
def Obligations.KeyWaitCompletesOnTheFirstRelease : Prop :=
  ∀ (x : Reg) (s : State) (samples : List (Word × Byte)) (last : Word × Byte) (es : List Event) (k : Nat),
    s.runState = .running → s.kwState = .armed → decode s.ir = some (.ldVxK x) →
    s.events = (samples ++ [last]).map (fun p => Event.cycle p.1 p.2) ++ es →
    noRelease s.kwPrev (samples.map Prod.fst) = true → k < 16 →
    (lastSample s.kwPrev (samples.map Prod.fst) &&& ~~~ last.1).getLsbD k = true →
    (∀ j < k, (lastSample s.kwPrev (samples.map Prod.fst) &&& ~~~ last.1).getLsbD j = false) →
    ∃ t u : State, Host.Core.run core samples.length s = .next t ∧ t.kwState = .armed ∧
      SameRegsBut [] s t ∧ t.pc = s.pc ∧
      Host.Core.run core (samples.length + 1) s = .next u ∧ u.kwState = .idle ∧
      (getV u x).toNat = k ∧ SameRegsBut [x] s u ∧ SameMemory s u ∧ u.pc = s.pc ∧
      u.runState = .running ∧ u.events = es

/-- R244, R245, R246: the timer transfers; which word does which is the spec's decision D5. -/
def Obligations.TimerTransfersCopyTheTimers : Prop :=
  ∀ (x : Reg) (s : State),
    (∃ t, exec (.ldVxDT x) s = .next t ∧ getV t x = s.dt ∧ ChangesOnlyRegs [x] s t) ∧
    (∃ t, exec (.ldDT x) s = .next t ∧ t.dt = getV s x ∧ SameRegsBut [] s t ∧ SameMemory s t ∧
      t = { s with dt := t.dt }) ∧
    (∃ t, exec (.ldST x) s = .next t ∧ t.st = getV s x ∧ SameRegsBut [] s t ∧ SameMemory s t ∧
      t = { s with st := t.st })
end

