-- ==== Sys2Proof/Laws/Decode.lean ====
section
/-! SUPPORT. The bits of a word made from fields and the fields of such a word (spec/30_encoding.md R91,
R92). -/

namespace Sys2Proof

/-! ### Bits -/

theorem getLsbD_wordNNN (op : Nibble) (nnn : Addr) (k : Nat) :
    (wordNNN op nnn).getLsbD k = if k < 12 then nnn.getLsbD k else op.getLsbD (k - 12) :=
  BitVec.getLsbD_append

theorem getLsbD_wordXKK (op : Nibble) (x : Reg) (kk : Byte) (k : Nat) :
    (wordXKK op x kk).getLsbD k =
      if k < 8 then kk.getLsbD k else if k < 12 then x.getLsbD (k - 8) else op.getLsbD (k - 12) := by
  refine (BitVec.getLsbD_append (x := op ++ x) (y := kk)).trans ?_
  rw [BitVec.getLsbD_append]
  by_cases h : k < 8
  · simp [h]
  · have h1 : (k - 8 < 4) = (k < 12) := by simp only [eq_iff_iff]; omega
    simp [h, h1, show k - 8 - 4 = k - 12 by omega]

theorem getLsbD_wordXYN (op : Nibble) (x y : Reg) (n : Nibble) (k : Nat) :
    (wordXYN op x y n).getLsbD k =
      if k < 4 then n.getLsbD k else if k < 8 then y.getLsbD (k - 4)
      else if k < 12 then x.getLsbD (k - 8) else op.getLsbD (k - 12) := by
  refine (BitVec.getLsbD_append (x := op ++ x) (y := y ++ n)).trans ?_
  rw [BitVec.getLsbD_append, BitVec.getLsbD_append]
  by_cases h : k < 8
  · simp [h]
  · have h1 : (k - 8 < 4) = (k < 12) := by simp only [eq_iff_iff]; omega
    simp [h, h1, show ¬ k < 4 by omega, show k - 8 - 4 = k - 12 by omega]

theorem getLsbD_wordOfBytes (hi lo : Byte) (k : Nat) :
    (wordOfBytes hi lo).getLsbD k = if k < 8 then lo.getLsbD k else hi.getLsbD (k - 8) :=
  BitVec.getLsbD_append

/-- The byte order of an instruction is the same both ways (spec/20_memory.md R62). -/
theorem wordOfBytes_bytes (w : Word) :
    wordOfBytes (w.extractLsb' 8 8) (w.extractLsb' 0 8) = w := by
  apply BitVec.eq_of_getLsbD_eq
  intro k hk
  rw [getLsbD_wordOfBytes]
  simp only [BitVec.getLsbD_extractLsb']
  by_cases h : k < 8
  · simp [h]
  · simp [h, show k - 8 < 8 by omega, show 8 + (k - 8) = k by omega]

/-! ### Fields -/

@[simp] theorem opField_wordNNN (op : Nibble) (nnn : Addr) : opField (wordNNN op nnn) = op := by
  apply BitVec.eq_of_getLsbD_eq
  intro k hk
  rw [opField, BitVec.getLsbD_extractLsb', getLsbD_wordNNN]
  interval_cases k <;> simp

@[simp] theorem nnnField_wordNNN (op : Nibble) (nnn : Addr) : nnnField (wordNNN op nnn) = nnn := by
  apply BitVec.eq_of_getLsbD_eq
  intro k hk
  rw [nnnField, BitVec.getLsbD_extractLsb', getLsbD_wordNNN]
  interval_cases k <;> simp

@[simp] theorem opField_wordXKK (op : Nibble) (x : Reg) (kk : Byte) : opField (wordXKK op x kk) = op := by
  apply BitVec.eq_of_getLsbD_eq
  intro k hk
  rw [opField, BitVec.getLsbD_extractLsb', getLsbD_wordXKK]
  interval_cases k <;> simp

@[simp] theorem xField_wordXKK (op : Nibble) (x : Reg) (kk : Byte) : xField (wordXKK op x kk) = x := by
  apply BitVec.eq_of_getLsbD_eq
  intro k hk
  rw [xField, BitVec.getLsbD_extractLsb', getLsbD_wordXKK]
  interval_cases k <;> simp

@[simp] theorem kkField_wordXKK (op : Nibble) (x : Reg) (kk : Byte) : kkField (wordXKK op x kk) = kk := by
  apply BitVec.eq_of_getLsbD_eq
  intro k hk
  rw [kkField, BitVec.getLsbD_extractLsb', getLsbD_wordXKK]
  interval_cases k <;> simp

@[simp] theorem opField_wordXYN (op : Nibble) (x y : Reg) (n : Nibble) : opField (wordXYN op x y n) = op := by
  apply BitVec.eq_of_getLsbD_eq
  intro k hk
  rw [opField, BitVec.getLsbD_extractLsb', getLsbD_wordXYN]
  interval_cases k <;> simp

@[simp] theorem xField_wordXYN (op : Nibble) (x y : Reg) (n : Nibble) : xField (wordXYN op x y n) = x := by
  apply BitVec.eq_of_getLsbD_eq
  intro k hk
  rw [xField, BitVec.getLsbD_extractLsb', getLsbD_wordXYN]
  interval_cases k <;> simp

@[simp] theorem yField_wordXYN (op : Nibble) (x y : Reg) (n : Nibble) : yField (wordXYN op x y n) = y := by
  apply BitVec.eq_of_getLsbD_eq
  intro k hk
  rw [yField, BitVec.getLsbD_extractLsb', getLsbD_wordXYN]
  interval_cases k <;> simp

@[simp] theorem nField_wordXYN (op : Nibble) (x y : Reg) (n : Nibble) : nField (wordXYN op x y n) = n := by
  apply BitVec.eq_of_getLsbD_eq
  intro k hk
  rw [nField, BitVec.getLsbD_extractLsb', getLsbD_wordXYN]
  interval_cases k <;> simp

end Sys2Proof
end

