-- ==== Sys2Proof/Laws/State.lean ====
section
/-! SUPPORT. One lemma per field per named update of State, true by rfl, so that no proof unfolds a
record update. -/

namespace Sys2Proof.Machine

section setV
variable (s : State) (x : Reg) (b : Byte)
@[simp] theorem setV_v : (setV s x b).v = s.v.set x.toNat b := rfl
@[simp] theorem setV_pc : (setV s x b).pc = s.pc := rfl
@[simp] theorem setV_i : (setV s x b).i = s.i := rfl
@[simp] theorem setV_sp : (setV s x b).sp = s.sp := rfl
@[simp] theorem setV_stack : (setV s x b).stack = s.stack := rfl
@[simp] theorem setV_dt : (setV s x b).dt = s.dt := rfl
@[simp] theorem setV_st : (setV s x b).st = s.st := rfl
@[simp] theorem setV_mem : (setV s x b).mem = s.mem := rfl
@[simp] theorem setV_fb : (setV s x b).fb = s.fb := rfl
@[simp] theorem setV_dirty : (setV s x b).dirty = s.dirty := rfl
@[simp] theorem setV_keys : (setV s x b).keys = s.keys := rfl
@[simp] theorem setV_ir : (setV s x b).ir = s.ir := rfl
@[simp] theorem setV_kwState : (setV s x b).kwState = s.kwState := rfl
@[simp] theorem setV_kwPrev : (setV s x b).kwPrev = s.kwPrev := rfl
@[simp] theorem setV_runState : (setV s x b).runState = s.runState := rfl
@[simp] theorem setV_errKind : (setV s x b).errKind = s.errKind := rfl
@[simp] theorem setV_errWord : (setV s x b).errWord = s.errWord := rfl
@[simp] theorem setV_errPc : (setV s x b).errPc = s.errPc := rfl
@[simp] theorem setV_snap : (setV s x b).snap = s.snap := rfl
@[simp] theorem setV_snapValid : (setV s x b).snapValid = s.snapValid := rfl
@[simp] theorem setV_rndIn : (setV s x b).rndIn = s.rndIn := rfl
@[simp] theorem setV_events : (setV s x b).events = s.events := rfl
@[simp] theorem setV_eventNo : (setV s x b).eventNo = s.eventNo := rfl
@[simp] theorem setV_resets : (setV s x b).resets = s.resets := rfl
@[simp] theorem setV_params : (setV s x b).params = s.params := rfl
end setV

section setResultAndFlag
variable (s : State) (x : Reg) (b f : Byte)
@[simp] theorem setResultAndFlag_v : (setResultAndFlag s x b f).v = (s.v.set x.toNat b).set 15 f := rfl
@[simp] theorem setResultAndFlag_pc : (setResultAndFlag s x b f).pc = s.pc := rfl
@[simp] theorem setResultAndFlag_i : (setResultAndFlag s x b f).i = s.i := rfl
@[simp] theorem setResultAndFlag_sp : (setResultAndFlag s x b f).sp = s.sp := rfl
@[simp] theorem setResultAndFlag_stack : (setResultAndFlag s x b f).stack = s.stack := rfl
@[simp] theorem setResultAndFlag_dt : (setResultAndFlag s x b f).dt = s.dt := rfl
@[simp] theorem setResultAndFlag_st : (setResultAndFlag s x b f).st = s.st := rfl
@[simp] theorem setResultAndFlag_mem : (setResultAndFlag s x b f).mem = s.mem := rfl
@[simp] theorem setResultAndFlag_fb : (setResultAndFlag s x b f).fb = s.fb := rfl
@[simp] theorem setResultAndFlag_dirty : (setResultAndFlag s x b f).dirty = s.dirty := rfl
@[simp] theorem setResultAndFlag_keys : (setResultAndFlag s x b f).keys = s.keys := rfl
@[simp] theorem setResultAndFlag_ir : (setResultAndFlag s x b f).ir = s.ir := rfl
@[simp] theorem setResultAndFlag_kwState : (setResultAndFlag s x b f).kwState = s.kwState := rfl
@[simp] theorem setResultAndFlag_kwPrev : (setResultAndFlag s x b f).kwPrev = s.kwPrev := rfl
@[simp] theorem setResultAndFlag_runState : (setResultAndFlag s x b f).runState = s.runState := rfl
@[simp] theorem setResultAndFlag_errKind : (setResultAndFlag s x b f).errKind = s.errKind := rfl
@[simp] theorem setResultAndFlag_errWord : (setResultAndFlag s x b f).errWord = s.errWord := rfl
@[simp] theorem setResultAndFlag_errPc : (setResultAndFlag s x b f).errPc = s.errPc := rfl
@[simp] theorem setResultAndFlag_snap : (setResultAndFlag s x b f).snap = s.snap := rfl
@[simp] theorem setResultAndFlag_snapValid : (setResultAndFlag s x b f).snapValid = s.snapValid := rfl
@[simp] theorem setResultAndFlag_rndIn : (setResultAndFlag s x b f).rndIn = s.rndIn := rfl
@[simp] theorem setResultAndFlag_events : (setResultAndFlag s x b f).events = s.events := rfl
@[simp] theorem setResultAndFlag_eventNo : (setResultAndFlag s x b f).eventNo = s.eventNo := rfl
@[simp] theorem setResultAndFlag_resets : (setResultAndFlag s x b f).resets = s.resets := rfl
@[simp] theorem setResultAndFlag_params : (setResultAndFlag s x b f).params = s.params := rfl
end setResultAndFlag

section setPc
variable (s : State) (w : Word)
@[simp] theorem setPc_v : (setPc s w).v = s.v := rfl
@[simp] theorem setPc_pc : (setPc s w).pc = w := rfl
@[simp] theorem setPc_i : (setPc s w).i = s.i := rfl
@[simp] theorem setPc_sp : (setPc s w).sp = s.sp := rfl
@[simp] theorem setPc_stack : (setPc s w).stack = s.stack := rfl
@[simp] theorem setPc_dt : (setPc s w).dt = s.dt := rfl
@[simp] theorem setPc_st : (setPc s w).st = s.st := rfl
@[simp] theorem setPc_mem : (setPc s w).mem = s.mem := rfl
@[simp] theorem setPc_fb : (setPc s w).fb = s.fb := rfl
@[simp] theorem setPc_dirty : (setPc s w).dirty = s.dirty := rfl
@[simp] theorem setPc_keys : (setPc s w).keys = s.keys := rfl
@[simp] theorem setPc_ir : (setPc s w).ir = s.ir := rfl
@[simp] theorem setPc_kwState : (setPc s w).kwState = s.kwState := rfl
@[simp] theorem setPc_kwPrev : (setPc s w).kwPrev = s.kwPrev := rfl
@[simp] theorem setPc_runState : (setPc s w).runState = s.runState := rfl
@[simp] theorem setPc_errKind : (setPc s w).errKind = s.errKind := rfl
@[simp] theorem setPc_errWord : (setPc s w).errWord = s.errWord := rfl
@[simp] theorem setPc_errPc : (setPc s w).errPc = s.errPc := rfl
@[simp] theorem setPc_snap : (setPc s w).snap = s.snap := rfl
@[simp] theorem setPc_snapValid : (setPc s w).snapValid = s.snapValid := rfl
@[simp] theorem setPc_rndIn : (setPc s w).rndIn = s.rndIn := rfl
@[simp] theorem setPc_events : (setPc s w).events = s.events := rfl
@[simp] theorem setPc_eventNo : (setPc s w).eventNo = s.eventNo := rfl
@[simp] theorem setPc_resets : (setPc s w).resets = s.resets := rfl
@[simp] theorem setPc_params : (setPc s w).params = s.params := rfl
end setPc

section setI
variable (s : State) (w : Word)
@[simp] theorem setI_v : (setI s w).v = s.v := rfl
@[simp] theorem setI_pc : (setI s w).pc = s.pc := rfl
@[simp] theorem setI_i : (setI s w).i = w := rfl
@[simp] theorem setI_sp : (setI s w).sp = s.sp := rfl
@[simp] theorem setI_stack : (setI s w).stack = s.stack := rfl
@[simp] theorem setI_dt : (setI s w).dt = s.dt := rfl
@[simp] theorem setI_st : (setI s w).st = s.st := rfl
@[simp] theorem setI_mem : (setI s w).mem = s.mem := rfl
@[simp] theorem setI_fb : (setI s w).fb = s.fb := rfl
@[simp] theorem setI_dirty : (setI s w).dirty = s.dirty := rfl
@[simp] theorem setI_keys : (setI s w).keys = s.keys := rfl
@[simp] theorem setI_ir : (setI s w).ir = s.ir := rfl
@[simp] theorem setI_kwState : (setI s w).kwState = s.kwState := rfl
@[simp] theorem setI_kwPrev : (setI s w).kwPrev = s.kwPrev := rfl
@[simp] theorem setI_runState : (setI s w).runState = s.runState := rfl
@[simp] theorem setI_errKind : (setI s w).errKind = s.errKind := rfl
@[simp] theorem setI_errWord : (setI s w).errWord = s.errWord := rfl
@[simp] theorem setI_errPc : (setI s w).errPc = s.errPc := rfl
@[simp] theorem setI_snap : (setI s w).snap = s.snap := rfl
@[simp] theorem setI_snapValid : (setI s w).snapValid = s.snapValid := rfl
@[simp] theorem setI_rndIn : (setI s w).rndIn = s.rndIn := rfl
@[simp] theorem setI_events : (setI s w).events = s.events := rfl
@[simp] theorem setI_eventNo : (setI s w).eventNo = s.eventNo := rfl
@[simp] theorem setI_resets : (setI s w).resets = s.resets := rfl
@[simp] theorem setI_params : (setI s w).params = s.params := rfl
end setI

section writeBytes
variable (s : State) (a : Nat) (bs : List Byte)
@[simp] theorem writeBytes_v : (writeBytes s a bs).v = s.v := rfl
@[simp] theorem writeBytes_pc : (writeBytes s a bs).pc = s.pc := rfl
@[simp] theorem writeBytes_i : (writeBytes s a bs).i = s.i := rfl
@[simp] theorem writeBytes_sp : (writeBytes s a bs).sp = s.sp := rfl
@[simp] theorem writeBytes_stack : (writeBytes s a bs).stack = s.stack := rfl
@[simp] theorem writeBytes_dt : (writeBytes s a bs).dt = s.dt := rfl
@[simp] theorem writeBytes_st : (writeBytes s a bs).st = s.st := rfl
@[simp] theorem writeBytes_mem : (writeBytes s a bs).mem = writeCells s.params.font s.mem a bs := rfl
@[simp] theorem writeBytes_fb : (writeBytes s a bs).fb = s.fb := rfl
@[simp] theorem writeBytes_dirty : (writeBytes s a bs).dirty = s.dirty := rfl
@[simp] theorem writeBytes_keys : (writeBytes s a bs).keys = s.keys := rfl
@[simp] theorem writeBytes_ir : (writeBytes s a bs).ir = s.ir := rfl
@[simp] theorem writeBytes_kwState : (writeBytes s a bs).kwState = s.kwState := rfl
@[simp] theorem writeBytes_kwPrev : (writeBytes s a bs).kwPrev = s.kwPrev := rfl
@[simp] theorem writeBytes_runState : (writeBytes s a bs).runState = s.runState := rfl
@[simp] theorem writeBytes_errKind : (writeBytes s a bs).errKind = s.errKind := rfl
@[simp] theorem writeBytes_errWord : (writeBytes s a bs).errWord = s.errWord := rfl
@[simp] theorem writeBytes_errPc : (writeBytes s a bs).errPc = s.errPc := rfl
@[simp] theorem writeBytes_snap : (writeBytes s a bs).snap = s.snap := rfl
@[simp] theorem writeBytes_snapValid : (writeBytes s a bs).snapValid = s.snapValid := rfl
@[simp] theorem writeBytes_rndIn : (writeBytes s a bs).rndIn = s.rndIn := rfl
@[simp] theorem writeBytes_events : (writeBytes s a bs).events = s.events := rfl
@[simp] theorem writeBytes_eventNo : (writeBytes s a bs).eventNo = s.eventNo := rfl
@[simp] theorem writeBytes_resets : (writeBytes s a bs).resets = s.resets := rfl
@[simp] theorem writeBytes_params : (writeBytes s a bs).params = s.params := rfl
end writeBytes

section faultEntry
variable (k : ErrKind) (w : Word) (s : State)
@[simp] theorem faultEntry_v : (faultEntry k w s).v = s.v := rfl
@[simp] theorem faultEntry_pc : (faultEntry k w s).pc = s.pc := rfl
@[simp] theorem faultEntry_i : (faultEntry k w s).i = s.i := rfl
@[simp] theorem faultEntry_sp : (faultEntry k w s).sp = s.sp := rfl
@[simp] theorem faultEntry_stack : (faultEntry k w s).stack = s.stack := rfl
@[simp] theorem faultEntry_dt : (faultEntry k w s).dt = s.dt := rfl
@[simp] theorem faultEntry_st : (faultEntry k w s).st = s.st := rfl
@[simp] theorem faultEntry_mem : (faultEntry k w s).mem = s.mem := rfl
@[simp] theorem faultEntry_fb : (faultEntry k w s).fb = s.fb := rfl
@[simp] theorem faultEntry_dirty : (faultEntry k w s).dirty = s.dirty := rfl
@[simp] theorem faultEntry_keys : (faultEntry k w s).keys = s.keys := rfl
@[simp] theorem faultEntry_ir : (faultEntry k w s).ir = s.ir := rfl
@[simp] theorem faultEntry_kwState : (faultEntry k w s).kwState = s.kwState := rfl
@[simp] theorem faultEntry_kwPrev : (faultEntry k w s).kwPrev = s.kwPrev := rfl
@[simp] theorem faultEntry_runState : (faultEntry k w s).runState = .halted := rfl
@[simp] theorem faultEntry_errKind : (faultEntry k w s).errKind = k := rfl
@[simp] theorem faultEntry_errWord : (faultEntry k w s).errWord = s.ir := rfl
@[simp] theorem faultEntry_errPc : (faultEntry k w s).errPc = w := rfl
@[simp] theorem faultEntry_snap : (faultEntry k w s).snap = s.snap := rfl
@[simp] theorem faultEntry_snapValid : (faultEntry k w s).snapValid = s.snapValid := rfl
@[simp] theorem faultEntry_rndIn : (faultEntry k w s).rndIn = s.rndIn := rfl
@[simp] theorem faultEntry_events : (faultEntry k w s).events = s.events := rfl
@[simp] theorem faultEntry_eventNo : (faultEntry k w s).eventNo = s.eventNo := rfl
@[simp] theorem faultEntry_resets : (faultEntry k w s).resets = s.resets := rfl
@[simp] theorem faultEntry_params : (faultEntry k w s).params = s.params := rfl
end faultEntry

section raise
variable (k : ErrKind) (s : State)
@[simp] theorem raise_v : (raise k s).v = s.v := rfl
@[simp] theorem raise_pc : (raise k s).pc = s.pc := rfl
@[simp] theorem raise_i : (raise k s).i = s.i := rfl
@[simp] theorem raise_sp : (raise k s).sp = s.sp := rfl
@[simp] theorem raise_stack : (raise k s).stack = s.stack := rfl
@[simp] theorem raise_dt : (raise k s).dt = s.dt := rfl
@[simp] theorem raise_st : (raise k s).st = s.st := rfl
@[simp] theorem raise_mem : (raise k s).mem = s.mem := rfl
@[simp] theorem raise_fb : (raise k s).fb = s.fb := rfl
@[simp] theorem raise_dirty : (raise k s).dirty = s.dirty := rfl
@[simp] theorem raise_keys : (raise k s).keys = s.keys := rfl
@[simp] theorem raise_ir : (raise k s).ir = s.ir := rfl
@[simp] theorem raise_kwState : (raise k s).kwState = s.kwState := rfl
@[simp] theorem raise_kwPrev : (raise k s).kwPrev = s.kwPrev := rfl
@[simp] theorem raise_runState : (raise k s).runState = .halted := rfl
@[simp] theorem raise_errKind : (raise k s).errKind = k := rfl
@[simp] theorem raise_errWord : (raise k s).errWord = s.ir := rfl
@[simp] theorem raise_errPc : (raise k s).errPc = s.pc - 2 := rfl
@[simp] theorem raise_snap : (raise k s).snap = s.snap := rfl
@[simp] theorem raise_snapValid : (raise k s).snapValid = s.snapValid := rfl
@[simp] theorem raise_rndIn : (raise k s).rndIn = s.rndIn := rfl
@[simp] theorem raise_events : (raise k s).events = s.events := rfl
@[simp] theorem raise_eventNo : (raise k s).eventNo = s.eventNo := rfl
@[simp] theorem raise_resets : (raise k s).resets = s.resets := rfl
@[simp] theorem raise_params : (raise k s).params = s.params := rfl
end raise

section fetch
variable (s : State)
@[simp] theorem fetch_v : (fetch s).v = s.v := rfl
@[simp] theorem fetch_pc : (fetch s).pc = s.pc + 2 := rfl
@[simp] theorem fetch_i : (fetch s).i = s.i := rfl
@[simp] theorem fetch_sp : (fetch s).sp = s.sp := rfl
@[simp] theorem fetch_stack : (fetch s).stack = s.stack := rfl
@[simp] theorem fetch_dt : (fetch s).dt = s.dt := rfl
@[simp] theorem fetch_st : (fetch s).st = s.st := rfl
@[simp] theorem fetch_mem : (fetch s).mem = s.mem := rfl
@[simp] theorem fetch_fb : (fetch s).fb = s.fb := rfl
@[simp] theorem fetch_dirty : (fetch s).dirty = s.dirty := rfl
@[simp] theorem fetch_keys : (fetch s).keys = s.keys := rfl
@[simp] theorem fetch_ir : (fetch s).ir = fetchWord s := rfl
@[simp] theorem fetch_kwState : (fetch s).kwState = s.kwState := rfl
@[simp] theorem fetch_kwPrev : (fetch s).kwPrev = s.kwPrev := rfl
@[simp] theorem fetch_runState : (fetch s).runState = s.runState := rfl
@[simp] theorem fetch_errKind : (fetch s).errKind = s.errKind := rfl
@[simp] theorem fetch_errWord : (fetch s).errWord = s.errWord := rfl
@[simp] theorem fetch_errPc : (fetch s).errPc = s.errPc := rfl
@[simp] theorem fetch_snap : (fetch s).snap = s.snap := rfl
@[simp] theorem fetch_snapValid : (fetch s).snapValid = s.snapValid := rfl
@[simp] theorem fetch_rndIn : (fetch s).rndIn = s.rndIn := rfl
@[simp] theorem fetch_events : (fetch s).events = s.events := rfl
@[simp] theorem fetch_eventNo : (fetch s).eventNo = s.eventNo := rfl
@[simp] theorem fetch_resets : (fetch s).resets = s.resets := rfl
@[simp] theorem fetch_params : (fetch s).params = s.params := rfl
end fetch

section sampleInputs
variable (k : Word) (d : Byte) (s : State)
@[simp] theorem sampleInputs_v : (sampleInputs k d s).v = s.v := rfl
@[simp] theorem sampleInputs_pc : (sampleInputs k d s).pc = s.pc := rfl
@[simp] theorem sampleInputs_i : (sampleInputs k d s).i = s.i := rfl
@[simp] theorem sampleInputs_sp : (sampleInputs k d s).sp = s.sp := rfl
@[simp] theorem sampleInputs_stack : (sampleInputs k d s).stack = s.stack := rfl
@[simp] theorem sampleInputs_dt : (sampleInputs k d s).dt = s.dt := rfl
@[simp] theorem sampleInputs_st : (sampleInputs k d s).st = s.st := rfl
@[simp] theorem sampleInputs_mem : (sampleInputs k d s).mem = s.mem := rfl
@[simp] theorem sampleInputs_fb : (sampleInputs k d s).fb = s.fb := rfl
@[simp] theorem sampleInputs_dirty : (sampleInputs k d s).dirty = s.dirty := rfl
@[simp] theorem sampleInputs_keys : (sampleInputs k d s).keys = k := rfl
@[simp] theorem sampleInputs_ir : (sampleInputs k d s).ir = s.ir := rfl
@[simp] theorem sampleInputs_kwState : (sampleInputs k d s).kwState = s.kwState := rfl
@[simp] theorem sampleInputs_kwPrev : (sampleInputs k d s).kwPrev = s.kwPrev := rfl
@[simp] theorem sampleInputs_runState : (sampleInputs k d s).runState = s.runState := rfl
@[simp] theorem sampleInputs_errKind : (sampleInputs k d s).errKind = s.errKind := rfl
@[simp] theorem sampleInputs_errWord : (sampleInputs k d s).errWord = s.errWord := rfl
@[simp] theorem sampleInputs_errPc : (sampleInputs k d s).errPc = s.errPc := rfl
@[simp] theorem sampleInputs_snap : (sampleInputs k d s).snap = s.snap := rfl
@[simp] theorem sampleInputs_snapValid : (sampleInputs k d s).snapValid = false := rfl
@[simp] theorem sampleInputs_rndIn : (sampleInputs k d s).rndIn = d := rfl
@[simp] theorem sampleInputs_events : (sampleInputs k d s).events = s.events := rfl
@[simp] theorem sampleInputs_eventNo : (sampleInputs k d s).eventNo = s.eventNo := rfl
@[simp] theorem sampleInputs_resets : (sampleInputs k d s).resets = s.resets := rfl
@[simp] theorem sampleInputs_params : (sampleInputs k d s).params = s.params := rfl
end sampleInputs

end Sys2Proof.Machine
end

