-- ==== Sys2Proof/Laws/Memory.lean ====
section
/-! SUPPORT. The memory operations: a read after a write, and the canonical form kept by every one of
them. -/

namespace Sys2Proof.Machine

/-! ### Listed bytes -/

theorem lookup_insertCell (m : Memory) (a : Nat) (b : Byte) (k : Nat) :
    lookup (insertCell m a b) k = if k = a then some b else lookup m k := by
  induction m with
  | nil => simp [insertCell, lookup]
  | cons e m ih =>
    obtain ⟨j, c⟩ := e
    simp only [insertCell]
    split
    · simp [lookup]
    · split
      · next h => subst h; by_cases hk : k = a <;> simp [lookup, hk]
      · next hne =>
        by_cases hk : k = j
        · subst hk; simp [lookup, Ne.symm hne]
        · simp [lookup, hk, ih]

theorem lookup_eraseCell (m : Memory) (a k : Nat) :
    lookup (eraseCell m a) k = if k = a then none else lookup m k := by
  induction m with
  | nil => simp [eraseCell, lookup]
  | cons e m ih =>
    obtain ⟨j, c⟩ := e
    simp only [eraseCell]
    by_cases hj : a = j
    · subst hj
      rw [if_pos rfl, ih]
      by_cases hk : k = a <;> simp [lookup, hk]
    · by_cases hk : k = j
      · subst hk; simp [lookup, hj, Ne.symm hj]
      · simp [lookup, hj, hk, ih]

/-- What a memory list says an address reads as, without the free value. -/
def known (font : Vector Byte 80) (m : Memory) (a : Nat) : Option Byte :=
  match lookup m a with
  | some b => some b
  | none => unlisted font a

theorem known_writeCell (font : Vector Byte 80) (m : Memory) (a : Nat) (b : Byte) (k : Nat) :
    known font (writeCell font m a b) k = if k = a then some b else known font m k := by
  unfold writeCell known
  by_cases h : unlisted font a = some b
  · rw [if_pos h, lookup_eraseCell]
    by_cases hk : k = a
    · subst hk; simp [h]
    · simp [hk]
  · rw [if_neg h, lookup_insertCell]
    by_cases hk : k = a <;> simp [hk]

theorem known_writeCells_outside (font : Vector Byte 80) (bs : List Byte) (m : Memory) (a k : Nat)
    (h : k < a ∨ a + bs.length ≤ k) : known font (writeCells font m a bs) k = known font m k := by
  induction bs generalizing m a with
  | nil => rfl
  | cons b bs ih =>
    simp only [List.length_cons] at h
    rw [writeCells, ih _ _ (by omega), known_writeCell, if_neg (by omega)]

theorem known_writeCells_inside (font : Vector Byte 80) (bs : List Byte) (m : Memory) (a j : Nat)
    (h : j < bs.length) : known font (writeCells font m a bs) (a + j) = some bs[j] := by
  induction bs generalizing m a j with
  | nil => simp at h
  | cons b bs ih =>
    cases j with
    | zero =>
      rw [writeCells, known_writeCells_outside _ _ _ _ _ (by omega), known_writeCell]
      simp
    | succ j =>
      have := ih (writeCell font m a b) (a + 1) j (by simpa using h)
      rw [writeCells]
      simpa [Nat.add_assoc, Nat.add_comm 1 j] using this

/-! ### Bytes of the machine -/

theorem readByte_eq_known (s : State) (a : Nat) :
    readByte s a = (known s.params.font s.mem a).getD (Config.memInit s.resets a) := by
  unfold readByte known
  cases lookup s.mem a <;> rfl

/-- A read depends on memory, the font parameter and the count of RESETs alone. -/
theorem readByte_congr {s t : State} (hm : t.mem = s.mem) (hp : t.params = s.params)
    (hr : t.resets = s.resets) (a : Nat) : readByte t a = readByte s a := by
  simp only [readByte, hm, hp, hr]

/-- A read outside the written bytes gives what it gave. -/
theorem readByte_writeBytes_outside (s : State) (addr : Nat) (bs : List Byte) (a : Nat)
    (h : a < addr ∨ addr + bs.length ≤ a) : readByte (writeBytes s addr bs) a = readByte s a := by
  simp [readByte_eq_known, known_writeCells_outside _ _ _ _ _ h]

/-- A read of a written byte gives the byte written. -/
theorem readByte_writeBytes_inside (s : State) (addr : Nat) (bs : List Byte) (j : Nat)
    (h : j < bs.length) : readByte (writeBytes s addr bs) (addr + j) = bs[j] := by
  simp [readByte_eq_known, known_writeCells_inside _ _ _ _ _ h]

theorem length_readBytes (s : State) (addr n : Nat) : (readBytes s addr n).length = n := by
  induction n generalizing addr with
  | zero => rfl
  | succ n ih => simp [readBytes, ih]

theorem getElem_readBytes (s : State) (addr n k : Nat) (h : k < (readBytes s addr n).length) :
    (readBytes s addr n)[k] = readByte s (addr + k) := by
  induction n generalizing addr k with
  | zero => simp [readBytes] at h
  | succ n ih =>
    cases k with
    | zero => simp [readBytes]
    | succ k => simp [readBytes, ih, Nat.add_assoc, Nat.add_comm 1 k]

/-! ### The canonical form -/

theorem wfFrom_mono (font : Vector Byte 80) (m : Memory) {lo hi : Nat} (h : lo ≤ hi)
    (hw : wfFrom font hi m = true) : wfFrom font lo m = true := by
  cases m with
  | nil => rfl
  | cons e m =>
    obtain ⟨k, b⟩ := e
    simp only [wfFrom, Bool.and_eq_true, decide_eq_true_eq] at hw ⊢
    exact ⟨⟨⟨by omega, hw.1.1.2⟩, hw.1.2⟩, hw.2⟩

theorem wfFrom_insertCell (font : Vector Byte 80) (m : Memory) (a : Nat) (b : Byte) (lo : Nat)
    (hlo : lo ≤ a) (ha : a < 4096) (hb : unlisted font a ≠ some b) (hw : wfFrom font lo m = true) :
    wfFrom font lo (insertCell m a b) = true := by
  induction m generalizing lo with
  | nil => simp [insertCell, wfFrom, hlo, ha, hb]
  | cons e m ih =>
    obtain ⟨k, c⟩ := e
    simp only [wfFrom, Bool.and_eq_true, decide_eq_true_eq] at hw
    simp only [insertCell]
    split
    · next h =>
      simp only [wfFrom, Bool.and_eq_true, decide_eq_true_eq]
      exact ⟨⟨⟨hlo, ha⟩, hb⟩, ⟨⟨⟨by omega, hw.1.1.2⟩, hw.1.2⟩, hw.2⟩⟩
    · split
      · next h =>
        subst h
        simp only [wfFrom, Bool.and_eq_true, decide_eq_true_eq]
        exact ⟨⟨⟨hlo, ha⟩, hb⟩, hw.2⟩
      · simp only [wfFrom, Bool.and_eq_true, decide_eq_true_eq]
        exact ⟨hw.1, ih (k + 1) (by omega) hw.2⟩

theorem wfFrom_eraseCell (font : Vector Byte 80) (m : Memory) (a lo : Nat)
    (hw : wfFrom font lo m = true) : wfFrom font lo (eraseCell m a) = true := by
  induction m generalizing lo with
  | nil => rfl
  | cons e m ih =>
    obtain ⟨k, c⟩ := e
    simp only [wfFrom, Bool.and_eq_true, decide_eq_true_eq] at hw
    simp only [eraseCell]
    split
    · exact wfFrom_mono font _ (by omega) (ih (k + 1) hw.2)
    · simp only [wfFrom, Bool.and_eq_true, decide_eq_true_eq]
      exact ⟨hw.1, ih (k + 1) hw.2⟩

/-- A write of one byte inside memory keeps the canonical form. -/
theorem wf_writeCell (font : Vector Byte 80) (m : Memory) (a : Nat) (b : Byte) (ha : a < 4096)
    (hw : Memory.wf font m = true) : Memory.wf font (writeCell font m a b) = true := by
  unfold writeCell
  split
  · exact wfFrom_eraseCell font m a 0 hw
  · next h => exact wfFrom_insertCell font m a b 0 (Nat.zero_le a) ha h hw

/-- Writes inside memory keep the canonical form. -/
theorem wf_writeCells (font : Vector Byte 80) (bs : List Byte) (m : Memory) (a : Nat)
    (ha : a + bs.length ≤ 4096) (hw : Memory.wf font m = true) :
    Memory.wf font (writeCells font m a bs) = true := by
  induction bs generalizing m a with
  | nil => exact hw
  | cons b bs ih =>
    simp only [List.length_cons] at ha
    exact ih _ _ (by omega) (wf_writeCell font m a b (by omega) hw)

/-- Memory after RESET is in canonical form. -/
theorem wf_reset : Memory.wf State.reset.params.font State.reset.mem = true := rfl

end Sys2Proof.Machine
end

