-- ==== Sys2Proof/Laws/Ops.lean ====
section
/-! SUPPORT. One lemma per shared operation that says everything it can do. -/

namespace Sys2Proof.Machine

/-! ### Registers -/

theorem getV_setV (s : State) (x y : Reg) (b : Byte) :
    getV (setV s x b) y = if y = x then b else getV s y := by
  simp only [getV, setV, Vector.getElem_set]
  by_cases h : y = x
  · simp [h]
  · have : x.toNat ≠ y.toNat := fun e => h (BitVec.eq_of_toNat_eq e.symm)
    simp [h, this]

/-- Result first, flag second: with x = 15 the flag alone survives. -/
theorem getV_setResultAndFlag (s : State) (x y : Reg) (b f : Byte) :
    getV (setResultAndFlag s x b f) y = if y = VF then f else if y = x then b else getV s y := by
  simp only [setResultAndFlag, getV_setV]

/-- A register reads the register file alone. -/
theorem getV_congr {s t : State} (h : t.v = s.v) (y : Reg) : getV t y = getV s y := by
  simp only [getV, h]

/-! ### Checked memory accesses -/

theorem memCheck_eq_true_iff (addr n : Nat) : memCheck addr n = true ↔ n = 0 ∨ addr + n ≤ 0x1000 := by
  simp only [memCheck, Bool.not_eq_true', decide_eq_false_iff_not]
  omega

/-- A checked read: the bytes in address order where the check passes, else the fault. -/
theorem memRead_cases (s : State) (addr n : Nat) :
    (n = 0 ∨ addr + n ≤ 0x1000) ∧ memRead s addr n = some (readBytes s addr n) ∨
    (0 < n ∧ 0x1000 < addr + n) ∧ memRead s addr n = none := by
  unfold memRead
  cases h : memCheck addr n
  · right
    have h' : ¬ (n = 0 ∨ addr + n ≤ 0x1000) := by rw [← memCheck_eq_true_iff, h]; simp
    exact ⟨by omega, rfl⟩
  · exact .inl ⟨(memCheck_eq_true_iff _ _).1 h, rfl⟩

/-- A checked write: every byte where the check passes, else no byte. -/
theorem memWrite_cases (s : State) (addr : Nat) (bs : List Byte) :
    (bs.length = 0 ∨ addr + bs.length ≤ 0x1000) ∧ memWrite s addr bs = some (writeBytes s addr bs) ∨
    (0 < bs.length ∧ 0x1000 < addr + bs.length) ∧ memWrite s addr bs = none := by
  unfold memWrite
  cases h : memCheck addr bs.length
  · right
    have h' : ¬ (bs.length = 0 ∨ addr + bs.length ≤ 0x1000) := by rw [← memCheck_eq_true_iff, h]; simp
    exact ⟨by omega, rfl⟩
  · exact .inl ⟨(memCheck_eq_true_iff _ _).1 h, rfl⟩

/-! ### The call stack -/

/-- A push: at `SP` = 16 the fault, else the entry written and `SP` one more. -/
theorem push_cases (w : Word) (s : State) :
    s.sp.val = 16 ∧ push w s = none ∨
    ∃ h : s.sp.val < 16, push w s =
      some { s with stack := s.stack.set s.sp.val w, sp := ⟨s.sp.val + 1, by omega⟩ } := by
  unfold push
  by_cases h : s.sp.val < 16
  · exact .inr ⟨h, by simp [h]⟩
  · exact .inl ⟨by omega, by simp [h]⟩

/-- A pop: at `SP` = 0 the fault, else the top entry and `SP` one less. -/
theorem pop_cases (s : State) :
    s.sp.val = 0 ∧ pop s = none ∨
    ∃ h : 0 < s.sp.val, pop s =
      some (s.stack[s.sp.val - 1], { s with sp := ⟨s.sp.val - 1, by omega⟩ }) := by
  unfold pop
  by_cases h : 0 < s.sp.val
  · exact .inr ⟨h, by simp [h]⟩
  · exact .inl ⟨by omega, by simp [h]⟩

/-! ### Program counter -/

theorem skipIf_eq (p : Bool) (s : State) :
    skipIf p s = { s with pc := if p then s.pc + 2 else s.pc } := by
  cases p <;> rfl

theorem fetchOk_eq_true_iff (s : State) : fetchOk s = true ↔ s.pc.toNat ≤ 0xFFE := by
  simp [fetchOk]

/-! ### Flags -/

theorem flagByte_cases (p : Bool) : flagByte p = 0 ∨ flagByte p = 1 := by
  cases p <;> simp [flagByte]

/-! ### Register blocks -/

theorem length_regBlock (s : State) (x : Reg) : (regBlock s x).length = x.toNat + 1 := by
  have := x.isLt
  simp [regBlock]; omega

theorem getElem_regBlock (s : State) (x : Reg) (k : Nat) (h : k < (regBlock s x).length) :
    (regBlock s x)[k] = s.v[k]'(by have := x.isLt; rw [length_regBlock] at h; omega) := by
  simp [regBlock]

theorem getElem_setRegs (bs : List Byte) (v : Vector Byte 16) (k j : Nat) (hj : j < 16) :
    (setRegs v k bs)[j] = if h : k ≤ j ∧ j < k + bs.length then bs[j - k] else v[j] := by
  induction bs generalizing v k with
  | nil => simp [setRegs]
  | cons b bs ih =>
    rw [setRegs, ih]
    simp only [List.length_cons, Vector.getElem_setIfInBounds]
    by_cases h1 : k + 1 ≤ j ∧ j < k + 1 + bs.length
    · have h2 : k ≤ j ∧ j < k + (bs.length + 1) := by omega
      rw [dif_pos h1, dif_pos h2]
      have : j - k = (j - (k + 1)) + 1 := by omega
      simp [this]
    · rw [dif_neg h1]
      by_cases h3 : k = j
      · subst h3; simp
      · rw [if_neg h3, dif_neg (by omega)]

/-! ### Keys -/

/-- The least key is the least set bit. -/
theorem leastKey_spec (rel : Word) (h : rel ≠ 0) :
    leastKey rel < 16 ∧ rel.getLsbD (leastKey rel) = true ∧
    ∀ k < leastKey rel, rel.getLsbD k = false := by
  unfold leastKey
  cases hf : (List.range 16).find? (fun k => rel.getLsbD k) with
  | none =>
    exfalso
    apply h
    rw [List.find?_eq_none] at hf
    apply BitVec.eq_of_getLsbD_eq
    intro k hk
    simpa using hf k (List.mem_range.2 hk)
  | some m =>
    rw [List.find?_range_eq_some] at hf
    simp only [Option.getD_some]
    exact ⟨List.mem_range.1 hf.2.1, hf.1, fun k hk => by simpa using hf.2.2 k hk⟩

end Sys2Proof.Machine
end

