-- ==== Sys2Proof/Laws/PerInstr.lean ====
section
/-! SUPPORT. Laws made per instruction: every instruction is well-formed and its word matches a row of
the opcode table (spec/30_encoding.md R104, R105). -/

namespace Sys2Proof.Laws

/-- The typed fields hold in-range operands alone (R104). -/
theorem wellFormed_of_fields (i : Instr) : i.WellFormed = true := by
  have h4 : ∀ x : BitVec 4, decide (x.toNat < 16) = true := fun x => decide_eq_true x.isLt
  have h8 : ∀ x : BitVec 8, decide (x.toNat < 256) = true := fun x => decide_eq_true x.isLt
  have h12 : ∀ x : BitVec 12, decide (x.toNat < 4096) = true := fun x => decide_eq_true x.isLt
  cases i <;> simp only [Instr.WellFormed, regInRange, byteInRange, addrInRange, rowsInRange, h4, h8,
    h12, Bool.and_self]

/-! ### The masks of the formats (R92) -/

theorem wordNNN_mask (op : Nibble) (nnn : Addr) : wordNNN op nnn &&& 0xF000#16 = wordNNN op 0 := by
  apply BitVec.eq_of_getLsbD_eq
  intro k hk
  rw [BitVec.getLsbD_and, getLsbD_wordNNN, getLsbD_wordNNN]
  interval_cases k <;> simp

theorem wordXKK_mask_op (op : Nibble) (x : Reg) (kk : Byte) :
    wordXKK op x kk &&& 0xF000#16 = wordXKK op 0 0 := by
  apply BitVec.eq_of_getLsbD_eq
  intro k hk
  rw [BitVec.getLsbD_and, getLsbD_wordXKK, getLsbD_wordXKK]
  interval_cases k <;> simp

theorem wordXKK_mask_sub (op : Nibble) (x : Reg) (kk : Byte) :
    wordXKK op x kk &&& 0xF0FF#16 = wordXKK op 0 kk := by
  apply BitVec.eq_of_getLsbD_eq
  intro k hk
  rw [BitVec.getLsbD_and, getLsbD_wordXKK, getLsbD_wordXKK]
  interval_cases k <;> simp

theorem wordXYN_mask_op (op : Nibble) (x y : Reg) (n : Nibble) :
    wordXYN op x y n &&& 0xF000#16 = wordXYN op 0 0 0 := by
  apply BitVec.eq_of_getLsbD_eq
  intro k hk
  rw [BitVec.getLsbD_and, getLsbD_wordXYN, getLsbD_wordXYN]
  interval_cases k <;> simp

theorem wordXYN_mask_n (op : Nibble) (x y : Reg) (n : Nibble) :
    wordXYN op x y n &&& 0xF00F#16 = wordXYN op 0 0 n := by
  apply BitVec.eq_of_getLsbD_eq
  intro k hk
  rw [BitVec.getLsbD_and, getLsbD_wordXYN, getLsbD_wordXYN]
  interval_cases k <;> simp

namespace EncodingMatchesRow

/-- The instruction is well-formed and its word matches a row of R105. -/
def Statement (i : Instr) : Prop :=
  i.WellFormed = true ∧ ∃ r ∈ opcodeTable, r.matchesWord (encode i) = true

theorem of_row {i : Instr} (k : Nat) (r : OpRow) (hr : opcodeTable[k]? = some r)
    (hm : encode i &&& r.mask = r.bits) : Statement i :=
  ⟨wellFormed_of_fields i, r, List.mem_of_getElem? hr, by simp [OpRow.matchesWord, hm]⟩

theorem cls : Statement .cls :=
  of_row 0 _ rfl (by decide)

theorem ret : Statement .ret :=
  of_row 1 _ rfl (by decide)

theorem jp (nnn : Addr) : Statement (.jp nnn) :=
  of_row 2 _ rfl (wordNNN_mask ..)

theorem call (nnn : Addr) : Statement (.call nnn) :=
  of_row 3 _ rfl (wordNNN_mask ..)

theorem seImm (x : Reg) (kk : Byte) : Statement (.seImm x kk) :=
  of_row 4 _ rfl (wordXKK_mask_op ..)

theorem sneImm (x : Reg) (kk : Byte) : Statement (.sneImm x kk) :=
  of_row 5 _ rfl (wordXKK_mask_op ..)

theorem seReg (x : Reg) (y : Reg) : Statement (.seReg x y) :=
  of_row 6 _ rfl (wordXYN_mask_n ..)

theorem ldImm (x : Reg) (kk : Byte) : Statement (.ldImm x kk) :=
  of_row 7 _ rfl (wordXKK_mask_op ..)

theorem addImm (x : Reg) (kk : Byte) : Statement (.addImm x kk) :=
  of_row 8 _ rfl (wordXKK_mask_op ..)

theorem ldReg (x : Reg) (y : Reg) : Statement (.ldReg x y) :=
  of_row 9 _ rfl (wordXYN_mask_n ..)

theorem orReg (x : Reg) (y : Reg) : Statement (.orReg x y) :=
  of_row 10 _ rfl (wordXYN_mask_n ..)

theorem andReg (x : Reg) (y : Reg) : Statement (.andReg x y) :=
  of_row 11 _ rfl (wordXYN_mask_n ..)

theorem xorReg (x : Reg) (y : Reg) : Statement (.xorReg x y) :=
  of_row 12 _ rfl (wordXYN_mask_n ..)

theorem addReg (x : Reg) (y : Reg) : Statement (.addReg x y) :=
  of_row 13 _ rfl (wordXYN_mask_n ..)

theorem subReg (x : Reg) (y : Reg) : Statement (.subReg x y) :=
  of_row 14 _ rfl (wordXYN_mask_n ..)

theorem shr (x : Reg) (y : Reg) : Statement (.shr x y) :=
  of_row 15 _ rfl (wordXYN_mask_n ..)

theorem subnReg (x : Reg) (y : Reg) : Statement (.subnReg x y) :=
  of_row 16 _ rfl (wordXYN_mask_n ..)

theorem shl (x : Reg) (y : Reg) : Statement (.shl x y) :=
  of_row 17 _ rfl (wordXYN_mask_n ..)

theorem sneReg (x : Reg) (y : Reg) : Statement (.sneReg x y) :=
  of_row 18 _ rfl (wordXYN_mask_n ..)

theorem ldI (nnn : Addr) : Statement (.ldI nnn) :=
  of_row 19 _ rfl (wordNNN_mask ..)

theorem jpV0 (nnn : Addr) : Statement (.jpV0 nnn) :=
  of_row 20 _ rfl (wordNNN_mask ..)

theorem rnd (x : Reg) (kk : Byte) : Statement (.rnd x kk) :=
  of_row 21 _ rfl (wordXKK_mask_op ..)

theorem drw (x : Reg) (y : Reg) (n : Nibble) : Statement (.drw x y n) :=
  of_row 22 _ rfl (wordXYN_mask_op ..)

theorem skp (x : Reg) : Statement (.skp x) :=
  of_row 23 _ rfl (wordXKK_mask_sub ..)

theorem sknp (x : Reg) : Statement (.sknp x) :=
  of_row 24 _ rfl (wordXKK_mask_sub ..)

theorem ldVxDT (x : Reg) : Statement (.ldVxDT x) :=
  of_row 25 _ rfl (wordXKK_mask_sub ..)

theorem ldVxK (x : Reg) : Statement (.ldVxK x) :=
  of_row 26 _ rfl (wordXKK_mask_sub ..)

theorem ldDT (x : Reg) : Statement (.ldDT x) :=
  of_row 27 _ rfl (wordXKK_mask_sub ..)

theorem ldST (x : Reg) : Statement (.ldST x) :=
  of_row 28 _ rfl (wordXKK_mask_sub ..)

theorem addI (x : Reg) : Statement (.addI x) :=
  of_row 29 _ rfl (wordXKK_mask_sub ..)

theorem ldF (x : Reg) : Statement (.ldF x) :=
  of_row 30 _ rfl (wordXKK_mask_sub ..)

theorem ldB (x : Reg) : Statement (.ldB x) :=
  of_row 31 _ rfl (wordXKK_mask_sub ..)

theorem ldMemVx (x : Reg) : Statement (.ldMemVx x) :=
  of_row 32 _ rfl (wordXKK_mask_sub ..)

theorem ldVxMem (x : Reg) : Statement (.ldVxMem x) :=
  of_row 33 _ rfl (wordXKK_mask_sub ..)

end EncodingMatchesRow

end Sys2Proof.Laws
end

