-- ==== Sys2Proof/Laws/Step.lean ====
section
/-! SUPPORT. What a step, an event and a Cycle can do, said once. -/

namespace Sys2Proof.Machine

/-- Taking an event changes the model's own event fields alone. -/
theorem takeEvent_cases (s : State) :
    (∃ e es, s.events = e :: es ∧ takeEvent s = (e, { s with events := es })) ∨
    (s.events = [] ∧
      takeEvent s = (Config.freeEvent s.eventNo, { s with eventNo := s.eventNo + 1 })) := by
  unfold takeEvent
  cases h : s.events with
  | nil => exact .inr ⟨rfl, rfl⟩
  | cons e es => exact .inl ⟨e, es, rfl, rfl⟩

/-- Whatever the event, it is served in the state less the event taken. -/
theorem takeEvent_state (s : State) :
    ∃ es n, (takeEvent s).2 = { s with events := es, eventNo := n } := by
  rcases takeEvent_cases s with ⟨e, es, h, h'⟩ | ⟨h, h'⟩ <;> rw [h']
  · exact ⟨es, s.eventNo, rfl⟩
  · exact ⟨s.events, s.eventNo + 1, rfl⟩

theorem step_eq_serve (s : State) : step s = serve (takeEvent s).1 (takeEvent s).2 := rfl

/-- The step of a state whose next listed event is known. -/
theorem step_of_events {s : State} {e : Event} {es : List Event} (h : s.events = e :: es) :
    step s = serve e { s with events := es } := by
  rw [step_eq_serve, takeEvent, h]

/-- A Cycle: ignored, a fetch fault, a fetch and execute, or a poll of the blocked key wait. -/
theorem cycle_cases (k : Word) (d : Byte) (s : State) :
    (s.runState ≠ .running ∧ cycle k d s = .next s) ∨
    (s.runState = .running ∧ s.kwState = .armed ∧
      cycle k d s = decodeAndExecute (sampleInputs k d s)) ∨
    (s.runState = .running ∧ s.kwState = .idle ∧ s.pc.toNat ≤ 0xFFE ∧
      cycle k d s = decodeAndExecute (fetch (sampleInputs k d s))) ∨
    (s.runState = .running ∧ s.kwState = .idle ∧ 0xFFE < s.pc.toNat ∧
      cycle k d s = .next (raiseAtFetch (sampleInputs k d s))) := by
  unfold cycle
  by_cases hr : s.runState = .running
  · simp only [hr, if_true, true_and]
    right
    cases hk : s.kwState
    · right
      by_cases hp : s.pc.toNat ≤ 0xFFE
      · exact .inl ⟨rfl, hp, by simp [fetchOk_eq_true_iff, hp]⟩
      · exact .inr ⟨rfl, by omega, by simp [fetchOk_eq_true_iff, hp]⟩
    · exact .inl ⟨rfl, rfl⟩
  · exact .inl ⟨hr, if_neg hr⟩

/-- Decode and execute: the fault of an illegal word, or the instruction. -/
theorem decodeAndExecute_cases (s : State) :
    (decode s.ir = none ∧ decodeAndExecute s = .next (raise .illegalInstruction s)) ∨
    ∃ i, decode s.ir = some i ∧ decodeAndExecute s = exec i s := by
  unfold decodeAndExecute
  cases h : decode s.ir with
  | none => exact .inl ⟨rfl, rfl⟩
  | some i => exact .inr ⟨i, rfl, rfl⟩

/-- The timers and the frame of a Tick. -/
theorem publish_cases (s : State) :
    (s.dirty = true ∧ publish s = { s with snap := s.fb, snapValid := true, dirty := false }) ∨
    (s.dirty = false ∧ publish s = { s with snapValid := false }) := by
  unfold publish
  cases h : s.dirty
  · exact .inr ⟨rfl, rfl⟩
  · exact .inl ⟨rfl, rfl⟩

theorem toNat_countDown (t : Byte) : (countDown t).toNat = t.toNat - 1 := by
  unfold countDown
  by_cases h : t = 0
  · simp [h]
  · have hn : t.toNat ≠ 0 := fun e => h (BitVec.eq_of_toNat_eq (by simpa using e))
    have := t.isLt
    rw [if_neg h, BitVec.toNat_sub]
    change (2 ^ 8 - 1 + t.toNat) % 2 ^ 8 = t.toNat - 1
    omega

/-- A Tick of a running machine, all of it. -/
theorem tick_of_running (b : Bool) {s : State} (h : s.runState = .running) :
    tick b s = { s with
      dt := countDown s.dt, st := countDown s.st, snap := if s.dirty then s.fb else s.snap,
      snapValid := s.dirty, dirty := false, runState := if b then .stopped else .running } := by
  obtain ⟨v, pc, i, sp, stack, dt, st, mem, fb, dirty, keys, ir, kwState, kwPrev, runState, errKind, errWord,
    errPc, snap, snapValid, rndIn, events, eventNo, resets, params⟩ := s
  subst h
  cases b <;> cases dirty <;> rfl

/-! ### Runs of several steps -/

theorem run_zero (s : State) : Host.Core.run core 0 s = .next s := rfl

theorem run_succ_of_next {s t : State} (h : step s = .next t) (n : Nat) :
    Host.Core.run core (n + 1) s = Host.Core.run core n t := by
  have h' : core.step s = .next t := h
  simp only [Host.Core.run, h']

end Sys2Proof.Machine
end

