-- ==== Sys2Proof/Tests/Slice0.lean ====
section
/-! SUPPORT. Tests: the operand checks, decoding of words written out bit by bit, single steps with the
results of spec/95_test_vectors.md, and for each obligation with hypotheses a state that meets them. -/

namespace Sys2Proof.Tests

open Sys2Proof Sys2Proof.Machine

/-! ### Helpers -/

/-- A property of the next state; false where there is none. -/
def after (r : Result) (p : State → Bool) : Bool :=
  match r with
  | .next t => p t
  | _ => false

/-- The reset state, running, with the given events to come. -/
def running (es : List Event) : State := { State.reset with runState := .running, events := es }

/-- The reset state, running, with registers preset. -/
def preset (vs : List (Reg × Byte)) : State := vs.foldl (fun s p => setV s p.1 p.2) (running [])

/-- One Cycle on a word at `PC`. -/
def cycleOn (w : Nat) (s : State) : Result := step (s.withFetchWord 16 w)

/-- The machine faulted as spec/95_test_vectors.md lists it for a word at 0x0200. -/
def faulted (kind : ErrKind) (w : Word) (t : State) : Bool :=
  t.errKind == kind && t.errWord == w && t.errPc == 0x0200 && t.pc == 0x0202 && t.runState == .halted

/-! ### Operand checks (R104) -/

theorem test_wf_register : regInRange 16 = false ∧ asmReg 16 = none ∧ asmReg 15 = some 0xF := by decide
theorem test_wf_byte : byteInRange 256 = false ∧ asmByte 256 = none ∧ asmByte 255 = some 0xFF := by decide
theorem test_wf_address :
    addrInRange 4096 = false ∧ asmAddr 4096 = none ∧ asmAddr 4095 = some 0xFFF := by decide
theorem test_wf_rows : rowsInRange 16 = false ∧ asmRows 16 = none ∧ asmRows 15 = some 0xF := by decide
theorem test_wf_instruction : (Instr.drw 0xF 0xF 0xF).WellFormed = true := by decide

/-! ### Decoding of words written out from R91, R92 and R105 -/

theorem test_decode_family_0 :
    decode 0b0000000011100000 = some .cls ∧ decode 0b0000000011101110 = some .ret ∧
    decode 0x0123 = none ∧ decode 0x00E1 = none ∧ decode 0x0000 = none := by decide

theorem test_decode_jumps :
    decode 0b0001101010111100 = some (.jp 0xABC) ∧ decode 0b0010101010111100 = some (.call 0xABC) ∧
    decode 0b1011001100000000 = some (.jpV0 0x300) ∧ decode 0b1010000100100011 = some (.ldI 0x123) := by
  decide

theorem test_decode_immediates :
    decode 0b0011000101000010 = some (.seImm 1 0x42) ∧ decode 0b0100000101000010 = some (.sneImm 1 0x42) ∧
    decode 0b0110101011001101 = some (.ldImm 0xA 0xCD) ∧
    decode 0b0111001000011110 = some (.addImm 2 0x1E) ∧
    decode 0b1100000100001111 = some (.rnd 1 0x0F) := by decide

theorem test_decode_register_skips :
    decode 0b0101000100100000 = some (.seReg 1 2) ∧ decode 0b1001000100100000 = some (.sneReg 1 2) ∧
    decode 0x5121 = none ∧ decode 0x9128 = none := by decide

theorem test_decode_family_8 :
    decode 0b1000101010110000 = some (.ldReg 0xA 0xB) ∧ decode 0b1000101010110001 = some (.orReg 0xA 0xB) ∧
    decode 0b1000101010110010 = some (.andReg 0xA 0xB) ∧
    decode 0b1000101010110011 = some (.xorReg 0xA 0xB) ∧
    decode 0b1000101010110100 = some (.addReg 0xA 0xB) ∧
    decode 0b1000101010110101 = some (.subReg 0xA 0xB) ∧ decode 0b1000101010110110 = some (.shr 0xA 0xB) ∧
    decode 0b1000101010110111 = some (.subnReg 0xA 0xB) ∧ decode 0b1000101010111110 = some (.shl 0xA 0xB) ∧
    decode 0x8128 = none ∧ decode 0x812D = none ∧ decode 0x812F = none := by decide

theorem test_decode_draw : decode 0b1101000100100101 = some (.drw 1 2 5) := by decide

theorem test_decode_family_e :
    decode 0b1110000110011110 = some (.skp 1) ∧ decode 0b1110001010100001 = some (.sknp 2) ∧
    decode 0xE19F = none ∧ decode 0xE1A0 = none := by decide

theorem test_decode_family_f :
    decode 0b1111001000000111 = some (.ldVxDT 2) ∧ decode 0b1111001100001010 = some (.ldVxK 3) ∧
    decode 0b1111000100010101 = some (.ldDT 1) ∧ decode 0b1111000100011000 = some (.ldST 1) ∧
    decode 0b1111000100011110 = some (.addI 1) ∧ decode 0b1111000100101001 = some (.ldF 1) ∧
    decode 0b1111000100110011 = some (.ldB 1) ∧ decode 0b1111001001010101 = some (.ldMemVx 2) ∧
    decode 0b1111000101100101 = some (.ldVxMem 1) ∧ decode 0xF108 = none ∧ decode 0xF185 = none := by
  decide

/-- The byte at the lower address holds the high half of the word (vector X8). -/
theorem test_decode_byte_order :
    decodeBytes [0x72, 0x1E, 0xFF] = .ok (.addImm 2 0x1E, [0xFF]) ∧ encodeBytes (.addImm 2 0x1E) = [0x72, 0x1E] ∧
    decodeBytes [0x51, 0x21] = .error (.illegalInstruction 0x5121) ∧ decodeBytes [0x72] = .error .truncated ∧
    decodeTableWord 16 0x721E = some (.addImm 2 0x1E) := ⟨rfl, rfl, rfl, rfl, rfl⟩

/-- Lines of the listings in spec/95_test_vectors.md, part 3, and rule R102. -/
theorem test_asm_lines :
    asmLine (.ldImm 0 0x05) = "LD V0, 0x05" ∧ asmLine (.jp 0x204) = "JP 0x204" ∧
    asmLine (.ldVxMem 2) = "LD V2, [I]" ∧ asmLine (.addReg 0xA 0xB) = "ADD VA, VB" := by decide

/-! ### Control transfer (vectors B1 to B20) -/

theorem test_jp : after (cycleOn 0x1ABC (preset [])) (fun t => t.pc == 0x0ABC && t.sp == 0) = true := by
  decide
theorem test_call : after (cycleOn 0x2ABC (preset []))
    (fun t => t.pc == 0x0ABC && t.sp == 1 && t.stack[0] == 0x0202) = true := by decide
theorem test_call_full : after (cycleOn 0x2ABC { preset [] with sp := 16 })
    (fun t => faulted .stackOverflow 0x2ABC t && t.sp == 16 && t.stack == State.reset.stack) = true := by
  decide
theorem test_ret : after (cycleOn 0x00EE { preset [] with sp := 1, stack := State.reset.stack.set 0 0x0346 })
    (fun t => t.pc == 0x0346 && t.sp == 0 && t.stack[0] == 0x0346) = true := by decide
theorem test_ret_empty : after (cycleOn 0x00EE (preset []))
    (fun t => faulted .stackUnderflow 0x00EE t && t.sp == 0) = true := by decide
theorem test_se_imm : after (cycleOn 0x3142 (preset [(1, 0x42)])) (fun t => t.pc == 0x0204) = true ∧
    after (cycleOn 0x3142 (preset [(1, 0x43)])) (fun t => t.pc == 0x0202) = true := by decide
theorem test_sne_imm : after (cycleOn 0x4142 (preset [(1, 0x42)])) (fun t => t.pc == 0x0202) = true ∧
    after (cycleOn 0x4142 (preset [(1, 0x43)])) (fun t => t.pc == 0x0204) = true := by decide
theorem test_se_reg : after (cycleOn 0x5120 (preset [(1, 7), (2, 7)])) (fun t => t.pc == 0x0204) = true ∧
    after (cycleOn 0x5120 (preset [(1, 7), (2, 8)])) (fun t => t.pc == 0x0202) = true := by decide
theorem test_sne_reg : after (cycleOn 0x9120 (preset [(1, 7), (2, 7)])) (fun t => t.pc == 0x0202) = true ∧
    after (cycleOn 0x9120 (preset [(1, 7), (2, 8)])) (fun t => t.pc == 0x0204) = true := by decide
theorem test_jp_v0 : after (cycleOn 0xB300 (preset [(0, 0x10)])) (fun t => t.pc == 0x0310) = true ∧
    after (cycleOn 0xBFFF (preset [(0, 0xFF)])) (fun t => t.pc == 0x10FE) = true := by decide

/-! ### Arithmetic and logic (vectors A1 to A36) -/

theorem test_ld_imm : after (cycleOn 0x61AB (preset [(VF, 7)]))
    (fun t => getV t 1 == 0xAB && getV t VF == 7) = true := by decide
theorem test_add_imm : after (cycleOn 0x71FF (preset [(1, 5)]))
    (fun t => getV t 1 == 4 && getV t VF == 0) = true := by decide
theorem test_ld_reg : after (cycleOn 0x8120 (preset [(1, 1), (2, 0x99)]))
    (fun t => getV t 1 == 0x99 && getV t 2 == 0x99) = true := by decide
theorem test_or : after (cycleOn 0x8121 (preset [(1, 0x0F), (2, 0xF0), (VF, 7)]))
    (fun t => getV t 1 == 0xFF && getV t VF == 7) = true := by decide
theorem test_and : after (cycleOn 0x8122 (preset [(1, 0x3C), (2, 0x0F), (VF, 7)]))
    (fun t => getV t 1 == 0x0C && getV t VF == 7) = true := by decide
theorem test_xor : after (cycleOn 0x8123 (preset [(1, 0xFF), (2, 0x0F), (VF, 7)]))
    (fun t => getV t 1 == 0xF0 && getV t VF == 7) = true := by decide
theorem test_add_reg : after (cycleOn 0x8124 (preset [(1, 0xF0), (2, 0x20)]))
    (fun t => getV t 1 == 0x10 && getV t VF == 1) = true := by decide
theorem test_add_vf : after (cycleOn 0x8FF4 (preset [(VF, 0x80)])) (fun t => getV t VF == 1) = true ∧
    after (cycleOn 0x8AF4 (preset [(0xA, 1), (VF, 0xFF)]))
      (fun t => getV t 0xA == 0 && getV t VF == 1) = true := by decide
theorem test_sub : after (cycleOn 0x8125 (preset [(1, 5), (2, 7)]))
    (fun t => getV t 1 == 0xFE && getV t VF == 0) = true := by decide
theorem test_sub_equal : after (cycleOn 0x8125 (preset [(1, 7), (2, 7)]))
    (fun t => getV t 1 == 0 && getV t VF == 1) = true := by decide
theorem test_subn : after (cycleOn 0x8127 (preset [(1, 5), (2, 7)]))
    (fun t => getV t 1 == 2 && getV t VF == 1) = true := by decide
theorem test_shr : after (cycleOn 0x8126 (preset [(1, 5), (2, 0x80)]))
    (fun t => getV t 1 == 2 && getV t VF == 1) = true := by decide
theorem test_shr_vy :
    after (cycleOn 0x8126 { preset [(1, 5), (2, 0x80)] with params := { defaultParams with shiftSrc := .vy } })
      (fun t => getV t 1 == 0x40 && getV t VF == 0 && getV t 2 == 0x80) = true := by decide
theorem test_shl : after (cycleOn 0x812E (preset [(1, 0x81), (2, 1)]))
    (fun t => getV t 1 == 2 && getV t VF == 1) = true := by decide
theorem test_shl_vy :
    after (cycleOn 0x812E { preset [(1, 0x40), (2, 0xC1)] with params := { defaultParams with shiftSrc := .vy } })
      (fun t => getV t 1 == 0x82 && getV t VF == 1 && getV t 2 == 0xC1) = true := by decide
theorem test_rnd : after (cycleOn 0xC10F { preset [] with rndIn := 0xA7 }) (fun t => getV t 1 == 7) = true := by
  decide

/-! ### Address register and memory (vectors M1 to M19) -/

theorem test_ld_i : after (cycleOn 0xA123 { preset [] with i := 0xFFFF }) (fun t => t.i == 0x0123) = true := by
  decide
theorem test_add_i : after (cycleOn 0xF11E { preset [(1, 5)] with i := 0x0FFE })
      (fun t => t.i == 0x1003 && getV t VF == 0) = true ∧
    after (cycleOn 0xF11E { preset [(1, 1)] with i := 0xFFFF }) (fun t => t.i == 0) = true := by decide
theorem test_ld_f : after (cycleOn 0xF129 (preset [(1, 0x0A)])) (fun t => t.i == 0x0032) = true ∧
    after (cycleOn 0xF129 (preset [(1, 0xFF)])) (fun t => t.i == 0x04FB) = true := by decide
theorem test_ld_b : after (cycleOn 0xF133 { preset [(1, 0x9C)] with i := 0x0300 })
    (fun t => readBytes t 0x300 3 == [1, 5, 6] && t.i == 0x0300) = true := by decide
theorem test_ld_b_fault : after (cycleOn 0xF033 { preset [(0, 0xFF)] with i := 0x0FFE })
    (fun t => faulted .memoryFault 0xF033 t && lookup t.mem 0xFFE == none) = true := by decide
theorem test_ld_mem_vx : after (cycleOn 0xF255 { preset [(0, 1), (1, 2), (2, 3)] with i := 0x0FFD })
    (fun t => readBytes t 0xFFD 3 == [1, 2, 3] && t.i == 0x0FFD) = true := by decide
theorem test_ld_mem_vx_fault : after (cycleOn 0xF055 { preset [(0, 0x77)] with i := 0x1000 })
    (faulted .memoryFault 0xF055) = true := by decide
theorem test_ld_vx_mem : after (cycleOn 0xF165 (preset [(2, 9)]))
    (fun t => getV t 0 == 0xF0 && getV t 1 == 0x90 && getV t 2 == 9 && t.i == 0) = true := by decide
theorem test_ld_vx_mem_fault : after (cycleOn 0xFF65 { preset [] with i := 0x0FF1 })
    (faulted .memoryFault 0xFF65) = true := by decide

/-! ### Display (vectors G1 to G15) -/

theorem test_cls : after (cycleOn 0x00E0 { preset [] with fb := Vector.replicate 32 0xFF })
    (fun t => t.fb == Vector.replicate 32 0 && t.dirty) = true := by decide
/-- Vector G2: glyph F drawn at column 4, row 1. -/
theorem test_drw_glyph : after (cycleOn 0xD015 { preset [(0, 4), (1, 1)] with i := 0x004B })
    (fun t => (List.finRange 7).map (fun r => packedByte t.fb (Fin.ofNat 32 r.val) 0) ==
        [0, 0x0F, 0x08, 0x0F, 0x08, 0x08, 0] && getV t VF == 0 && t.dirty) = true := by decide
/-- Vector G3 (3C over F0), and program P3's first row, which wraps at the right edge. -/
theorem test_drw_collision_and_wrap :
    after (cycleOn 0xD011 { writeBytes (preset []) 0x20B [0x3C] with
        i := 0x020B, fb := State.reset.fb.set 0 0xF000000000000000 })
      (fun t => packedByte t.fb 0 0 == 0xCC && getV t VF == 1) = true ∧
    after (cycleOn 0xD011 { writeBytes (preset [(0, 0x3E), (1, 0x1F)]) 0x20E [0xF0] with i := 0x020E })
      (fun t => t.fb[31] == 0xC000000000000003 && getV t VF == 0) = true := by decide

/-! ### Keypad and timers (vectors K1 to K22) -/

theorem test_skp : after (cycleOn 0xE19E { preset [(1, 0x0F)] with keys := 0x8000 })
      (fun t => t.pc == 0x0204) = true ∧
    after (cycleOn 0xE19E { preset [(1, 0x15)] with keys := 0xFFFF }) (fun t => t.pc == 0x0202) = true := by
  decide
theorem test_sknp : after (cycleOn 0xE1A1 { preset [(1, 5)] with keys := 0x0020 })
      (fun t => t.pc == 0x0202) = true ∧
    after (cycleOn 0xE1A1 { preset [(1, 0x15)] with keys := 0xFFFF }) (fun t => t.pc == 0x0204) = true := by
  decide
/-- Vector K8, first Cycle. -/
theorem test_ld_vx_k_arms : after (cycleOn 0xF30A { preset [] with keys := 0x0002 })
    (fun t => t.kwState == .armed && t.kwPrev == 0x0002 && t.pc == 0x0202) = true := by decide
/-- Vector K10, second Cycle. -/
theorem test_ld_vx_k_completes :
    after (step { running [.cycle 0 0] with kwState := .armed, kwPrev := 0x00A0, ir := 0xF30A, pc := 0x0202 })
      (fun t => t.kwState == .idle && getV t 3 == 5 && t.pc == 0x0202) = true := by decide
theorem test_ld_vx_dt : after (cycleOn 0xF207 { preset [] with dt := 4 }) (fun t => getV t 2 == 4) = true := by
  decide
theorem test_ld_dt : after (cycleOn 0xF115 (preset [(1, 5)])) (fun t => t.dt == 5 && t.st == 0) = true := by
  decide
theorem test_ld_st : after (cycleOn 0xF118 (preset [(1, 0x3C)])) (fun t => t.st == 0x3C && t.dt == 0) = true := by
  decide

/-! ### Events (vectors B3, X2, X3, X4, K18 to K22, part 2.6) -/

theorem test_illegal_word : after (cycleOn 0x5121 (preset [])) (faulted .illegalInstruction 0x5121) = true := by
  decide
/-- Vector B3: the fetch fault leaves `PC` at 0x0FFF. -/
theorem test_fetch_fault : after (step { running [.cycle 0 0] with pc := 0x0FFF })
    (fun t => t.errKind == .memoryFault && t.errPc == 0x0FFF && t.pc == 0x0FFF && t.runState == .halted) =
      true := by decide
theorem test_load : after (step { State.reset with events := [.load [0x12, 0x00]], errKind := .programTooLarge })
    (fun t => readBytes t 0x200 2 == [0x12, 0x00] && t.errKind == .none && t.runState == .idle) = true := by
  decide
/-- Vector X3: 3585 bytes are too many. -/
theorem test_load_too_large : 3585 > progMax ∧ progMax = 3584 := by decide
theorem test_tick : after (step { running [.tick true] with dt := 2, dirty := true, fb := Vector.replicate 32 1 })
    (fun t => t.dt == 1 && t.st == 0 && t.runState == .stopped && t.errKind == .none && t.snapValid &&
      t.snap == Vector.replicate 32 1 && !t.dirty) = true := by decide
theorem test_reset : after (step { running [.reset] with pc := 0x0ABC, dt := 9 })
    (fun t => t.pc == 0x0200 && t.dt == 0 && t.runState == .idle) = true := by decide

/-! ### Witnesses: states that meet the hypotheses of the obligations -/

theorem test_witness_EncodingADecodedWordGivesItBack : decode 0xD125 = some (.drw 1 2 5) := by decide

theorem test_witness_ResetEventRestoresTheResetState : (running [.reset]).events = .reset :: [] := rfl

theorem test_witness_RunStartsTheRunLoopFromIdle :
    (running [.run]).events = .run :: [] ∧
    ({ State.reset with events := [.run] } : State).runState = .idle := ⟨rfl, rfl⟩

/-- The largest image. -/
theorem test_witness_LoadWritesTheImageAt0x200 :
    let bytes : List Byte := List.replicate 3584 0x12
    let s : State := { State.reset with events := [.load bytes] }
    s.events = .load bytes :: [] ∧ s.runState = .idle ∧ bytes.length ≤ 3584 :=
  ⟨rfl, rfl, by rw [List.length_replicate]⟩

/-- The smallest image that is too large, and a LOAD while running. -/
theorem test_witness_TooLargeOrMistimedLoadWritesNothing :
    let bytes : List Byte := List.replicate 3585 0x12
    let s : State := { State.reset with events := [.load bytes] }
    (s.events = .load bytes :: [] ∧ s.runState = .idle ∧ 3584 < bytes.length) ∧
    (running [.load bytes]).events = .load bytes :: [] ∧ (running [.load bytes]).runState ≠ .idle :=
  ⟨⟨rfl, rfl, by rw [List.length_replicate]; decide⟩, rfl, by decide⟩

/-- A CLS in the last two bytes of memory. -/
def lastWord : State := { writeBytes (running [.cycle 0x8000 0x5C]) 0xFFE [0x00, 0xE0] with pc := 0x0FFE }

theorem test_witness_CycleExecutesTheInstructionAtPc :
    lastWord.events = .cycle 0x8000 0x5C :: [] ∧ lastWord.runState = .running ∧ lastWord.kwState = .idle ∧
    lastWord.pc.toNat ≤ 0xFFE ∧
    decodeBytes [readByte lastWord lastWord.pc.toNat, readByte lastWord (lastWord.pc.toNat + 1)] =
      .ok (.cls, []) := ⟨rfl, rfl, rfl, by decide, rfl⟩

/-- A machine blocked in `LD V3, K` with keys 0 and 15 held, and two samples to come. -/
def blocked : State :=
  { running [.cycle 0x8001 0, .cycle 0x0001 0] with kwState := .armed, kwPrev := 0x8001, ir := 0xF30A }

theorem test_witness_BlockedCycleExecutesIrWithoutFetching :
    blocked.events = .cycle 0x8001 0 :: [.cycle 0x0001 0] ∧ blocked.runState = .running ∧
    blocked.kwState = .armed ∧ decode blocked.ir = some (.ldVxK 3) := by decide

theorem test_witness_IllegalWordRaisesIllegalInstruction :
    let s : State := { writeBytes (running [.cycle 0 0]) 0xFFE [0xFF, 0xFF] with pc := 0x0FFE }
    s.events = .cycle 0 0 :: [] ∧ s.runState = .running ∧ s.kwState = .idle ∧ s.pc.toNat ≤ 0xFFE ∧
    (0xFFFF : Word) = wordOfBytes (readByte s s.pc.toNat) (readByte s (s.pc.toNat + 1)) ∧
    decode 0xFFFF = none := by decide

theorem test_witness_FetchBeyondMemoryRaisesMemoryFault :
    let s : State := { running [.cycle 0 0] with pc := 0x0FFF }
    s.events = .cycle 0 0 :: [] ∧ s.runState = .running ∧ s.kwState = .idle ∧ 0xFFE < s.pc.toNat := by
  decide

theorem test_witness_HaltedMachineChangesOnlyOnReset :
    let s : State := { running [.run] with runState := .halted }
    s.events = .run :: [] ∧ s.runState = .halted ∧ Event.run ≠ .reset := by decide

theorem test_witness_IdleAndStoppedMachinesDoNotRun :
    let s : State := { State.reset with events := [.cycle 1 2, .tick true] }
    let u : State := { State.reset with events := [.tick true] }
    let t : State := { running [.run] with runState := .stopped }
    (s.events = .cycle 1 2 :: [.tick true] ∧ s.runState = .idle ∧ ∃ k d, Event.cycle 1 2 = .cycle k d) ∧
    (u.events = .tick true :: [] ∧ u.runState = .idle ∧ ∃ b, Event.tick true = .tick b) ∧
    t.events = .run :: [] ∧ t.runState = .stopped ∧ Event.run ≠ .reset :=
  ⟨⟨rfl, rfl, 1, 2, rfl⟩, ⟨rfl, rfl, true, rfl⟩, rfl, rfl, by decide⟩

theorem test_witness_TickDecrementsPublishesAndSamplesStop :
    (running [.tick true]).events = .tick true :: [] ∧ (running [.tick true]).runState = .running := by
  decide

theorem test_witness_TimersReachZeroAndStayThere :
    let s : State := running (List.replicate 12 (.tick false) ++ [.run])
    s.events = List.replicate 12 (.tick false) ++ [.run] ∧ s.runState = .running := by decide

/-- One step for each way `RUNSTATE` can change, and one that keeps it. -/
theorem test_witness_RunStateChangesOnlyAsListed :
    (∃ t, step (running [.tick false]) = .next t) ∧ (∃ t, step (running [.reset]) = .next t) ∧
    (∃ t, step { State.reset with events := [.run] } = .next t) ∧
    (∃ t, step { running [.cycle 0 0] with pc := 0x0FFF } = .next t ∧ t.runState = .halted) ∧
    (∃ t, step (running [.tick true]) = .next t ∧ t.runState = .stopped) :=
  ⟨⟨_, rfl⟩, ⟨_, rfl⟩, ⟨_, rfl⟩, ⟨_, rfl, rfl⟩, ⟨_, rfl, rfl⟩⟩

/-- A step that keeps the error registers, a RESET, a LOAD in `Idle`, a fault. -/
theorem test_witness_ErrorRegistersChangeOnlyAtFaultLoadOrReset :
    (∃ t, step (running [.tick false]) = .next t) ∧ (∃ t, step (running [.reset]) = .next t) ∧
    (∃ t, step { State.reset with events := [.load [0x12]], errKind := .programTooLarge } = .next t ∧
      t.errKind = .none) ∧
    (∃ t, step { running [.cycle 0 0] with pc := 0x0FFF } = .next t ∧ t.errKind = .memoryFault) :=
  ⟨⟨_, rfl⟩, ⟨_, rfl⟩, ⟨_, rfl, rfl⟩, ⟨_, rfl, rfl⟩⟩

/-- A Cycle performed, a Cycle ignored, a RESET and a Tick. -/
theorem test_witness_KeysAreWrittenOnlyBySampling :
    (∃ t, step blocked = .next t ∧ t.keys = 0x8001) ∧
    (∃ t, step { State.reset with events := [.cycle 0x8001 0] } = .next t ∧ t.keys = 0) ∧
    (∃ t, step { running [.reset] with keys := 1 } = .next t ∧ t.keys = 0) ∧
    (∃ t, step { running [.tick false] with keys := 1 } = .next t ∧ t.keys = 1) :=
  ⟨⟨_, rfl, rfl⟩, ⟨_, rfl, rfl⟩, ⟨_, rfl, rfl⟩, ⟨_, rfl, rfl⟩⟩

/-- Each check failing at its boundary, and passing beside it. -/
theorem test_witness_InstructionFaultsExactlyWhenItsCheckFails :
    faultOf (.call 0x200) { State.reset with sp := 16 } = some .stackOverflow ∧
    faultOf (.call 0x200) { State.reset with sp := 15 } = none ∧
    faultOf .ret State.reset = some .stackUnderflow ∧ faultOf .ret { State.reset with sp := 1 } = none ∧
    faultOf (.drw 0 1 15) { State.reset with i := 0x0FF2 } = some .memoryFault ∧
    faultOf (.drw 0 1 15) { State.reset with i := 0x0FF1 } = none ∧
    faultOf (.drw 0 1 0) { State.reset with i := 0xFFFF } = none ∧
    faultOf (.ldB 0) { State.reset with i := 0x0FFE } = some .memoryFault ∧
    faultOf (.ldB 0) { State.reset with i := 0x0FFD } = none ∧
    faultOf (.ldMemVx 0) { State.reset with i := 0x1000 } = some .memoryFault ∧
    faultOf (.ldVxMem 0xF) { State.reset with i := 0x0FF0 } = none := by decide

/-- A step from reset, which meets the invariant. -/
theorem test_witness_EveryStepKeepsTheInvariant :
    let s : State := { State.reset with events := [.run] }
    Inv s ∧ ∃ t, step s = .next t :=
  ⟨{ memWf := rfl, armedWord := by decide, pcBound := by decide, stackBound := by decide,
     haltedFault := by decide }, _, rfl⟩

theorem test_witness_NoStepChangesTheParameters :
    ∃ t, step { running [.reset] with params := { defaultParams with shiftSrc := .vy } } = .next t ∧
      t.params.shiftSrc = .vy := ⟨_, rfl, rfl⟩

/-- An instruction on each side of each clause. -/
theorem test_witness_EachElementIsWrittenOnlyByItsInstructions :
    (∃ t, exec (.ldST 1) State.reset = .next t) ∧ (∃ t, exec (.jp 0x200) State.reset = .next t) ∧
    writesPc (.ldST 1) = false ∧ writesRegs (.ldST 1) = false ∧ writesRegs (.jp 0x200) = false ∧
    faultOf (.ldST 1) State.reset = none ∧ faultOf (.ldB 0) { State.reset with i := 0x0FFD } = none ∧
    (∀ nnn, Instr.jp 0x200 ≠ .call nnn) ∧ Instr.jp 0x200 ≠ .ret ∧ (∀ nnn, Instr.jp 0x200 ≠ .ldI nnn) ∧
    (∀ x, Instr.jp 0x200 ≠ .addI x) ∧ (∀ x, Instr.jp 0x200 ≠ .ldF x) ∧ Instr.jp 0x200 ≠ .cls ∧
    (∀ x y n, Instr.jp 0x200 ≠ .drw x y n) ∧ (∀ x, Instr.jp 0x200 ≠ .ldB x) ∧
    (∀ x, Instr.jp 0x200 ≠ .ldMemVx x) ∧ (∀ x, Instr.jp 0x200 ≠ .ldDT x) ∧
    (∀ x, Instr.jp 0x200 ≠ .ldST x) ∧ ∀ x, Instr.jp 0x200 ≠ .ldVxK x := by
  refine ⟨⟨_, rfl⟩, ⟨_, rfl⟩, rfl, rfl, rfl, rfl, by decide, ?_⟩
  simp

/-- A flag writer, a DRW, a plain destination other than `VF`, and an instruction without one. -/
theorem test_witness_FlagRegisterIsWrittenOnlyByFlagWriters :
    (∃ t, exec (.addReg 1 2) State.reset = .next t) ∧ (∃ t, exec (.drw 0 1 1) State.reset = .next t) ∧
    (∃ t, exec (.ldImm 0xE 9) State.reset = .next t) ∧ (0xE : Reg) ≠ VF ∧
    ∃ t, exec (.jp 0x200) State.reset = .next t :=
  ⟨⟨_, rfl⟩, ⟨_, rfl⟩, ⟨_, rfl⟩, by decide, ⟨_, rfl⟩⟩

theorem test_witness_HiddenElementsDoNotFlowIntoTheProgram :
    let s : State := { State.reset with st := 7, dirty := true, snapValid := true, errPc := 0x0204 }
    s = { State.reset with
      st := s.st, dirty := s.dirty, snap := s.snap, snapValid := s.snapValid,
      errKind := s.errKind, errWord := s.errWord, errPc := s.errPc } := rfl

theorem test_witness_CallPushesTheReturnAddressAndJumps :
    ({ State.reset with sp := 15 } : State).sp.val < 16 ∧ ({ State.reset with sp := 16 } : State).sp.val = 16 := by
  decide

theorem test_witness_ReturnPopsPc :
    ({ State.reset with sp := 16 } : State).sp.val = (15 : Fin 16).val + 1 ∧
    ({ State.reset with sp := 1 } : State).sp.val = (0 : Fin 16).val + 1 ∧ State.reset.sp.val = 0 := by decide

theorem test_witness_ReturnAfterCallRestoresPc : ({ State.reset with sp := 15 } : State).sp.val < 16 := by
  decide

theorem test_witness_FamilyEightIsSelectedByTheLowNibble :
    (0xF : Nibble) ∈ [0x8#4, 0x9#4, 0xA#4, 0xB#4, 0xC#4, 0xD#4, 0xF#4] := by decide

theorem test_witness_AddSetsTheCarryFlag : (0xE : Reg) ≠ VF := by decide

theorem test_witness_SubtractionsSetTheNotBorrowFlag : (0xE : Reg) ≠ VF := by decide

/-- A destination other than `VF`, for both values of `SHIFT_SRC`. -/
theorem test_witness_ShiftsSetTheShiftedOutBit :
    let s : State := preset [(1, 0x81), (2, 0x7E)]
    let u : State := { s with params := { defaultParams with shiftSrc := .vy } }
    (0x81 : Byte) = (match s.params.shiftSrc with | .vx => getV s 1 | .vy => getV s 2) ∧
    (0x7E : Byte) = (match u.params.shiftSrc with | .vx => getV u 1 | .vy => getV u 2) ∧ (1 : Reg) ≠ VF := by
  decide

theorem test_witness_StoreBcdWritesThreeDigits :
    ({ State.reset with i := 0x0FFD } : State).i.toNat ≤ 0xFFD ∧
    0xFFD < ({ State.reset with i := 0x0FFE } : State).i.toNat := by decide

theorem test_witness_BlockStoreWritesTheRegisters :
    ({ State.reset with i := 0x0FF0 } : State).i.toNat + (0xF : Reg).toNat ≤ 0xFFF ∧
    (0xF : Reg).toNat ≤ (0xF : Reg).toNat ∧
    0xFFF < ({ State.reset with i := 0x0FF1 } : State).i.toNat + (0xF : Reg).toNat := by decide

theorem test_witness_BlockLoadReadsTheRegisters :
    ({ State.reset with i := 0x0FFF } : State).i.toNat + (0 : Reg).toNat ≤ 0xFFF ∧
    0xFFF < ({ State.reset with i := 0x1000 } : State).i.toNat + (0 : Reg).toNat := by decide

/-- No row at any address, 15 rows that end at 0xFFF, 15 rows that end one byte later. -/
theorem test_witness_DrawFlipsExactlyTheCoveredPixels :
    ({ State.reset with i := 0xFFFF } : State).i.toNat = 0xFFFF ∧
    ({ State.reset with i := 0x0FF1 } : State).i.toNat + (0xF : Nibble).toNat ≤ 0x1000 ∧ 0 < (0xF : Nibble).toNat ∧
    0x1000 < ({ State.reset with i := 0x0FF2 } : State).i.toNat + (0xF : Nibble).toNat := by decide

/-- The state after the first draw, with `VF` put back. -/
theorem test_witness_DrawingTwiceRestoresTheDisplay :
    State.reset.i.toNat + (5 : Nibble).toNat ≤ 0x1000 ∧
    ∃ t, exec (.drw 0 1 5) State.reset = .next t ∧ t = { t with v := t.v } ∧
      getV t 0 = getV State.reset 0 ∧ getV t 1 = getV State.reset 1 := ⟨by decide, _, rfl, rfl, rfl, rfl⟩

theorem test_witness_PackedBytesDrawAsThePixelsDo : (List.replicate 15 (0xFF : Byte)).length ≤ 15 := by decide

/-- Key 15 pressed, and key 16, which there is not. -/
theorem test_witness_KeySkipsTestTheSampledKey :
    let s : State := { preset [(1, 15), (2, 16)] with keys := 0x8000 }
    (true = true ↔ (getV s 1).toNat ≤ 15 ∧ s.keys.getLsbD (getV s 1).toNat = true) ∧
    (false = true ↔ (getV s 2).toNat ≤ 15 ∧ s.keys.getLsbD (getV s 2).toNat = true) := by decide

/-- A wait not yet armed, one without a release, releases of key 0 and of key 15. -/
theorem test_witness_KeyWaitArmsWaitsAndCompletes :
    let s : State := { blocked with keys := 0x8001 }
    let u : State := { blocked with keys := 0x0001 }
    let w : State := { blocked with keys := 0x0000 }
    State.reset.kwState = .idle ∧ (s.kwState = .armed ∧ s.kwPrev &&& ~~~ s.keys = 0) ∧
    (u.kwState = .armed ∧ 15 < 16 ∧ (u.kwPrev &&& ~~~ u.keys).getLsbD 15 = true ∧
      ∀ j < 15, (u.kwPrev &&& ~~~ u.keys).getLsbD j = false) ∧
    (w.kwState = .armed ∧ 0 < 16 ∧ (w.kwPrev &&& ~~~ w.keys).getLsbD 0 = true ∧
      ∀ j < 0, (w.kwPrev &&& ~~~ w.keys).getLsbD j = false) := by decide

/-- One Cycle without a release, then key 15 released. -/
theorem test_witness_KeyWaitCompletesOnTheFirstRelease :
    blocked.runState = .running ∧ blocked.kwState = .armed ∧ decode blocked.ir = some (.ldVxK 3) ∧
    blocked.events = ([((0x8001 : Word), (0 : Byte))] ++ [(0x0001, 0)]).map
      (fun p : Word × Byte => Event.cycle p.1 p.2) ++ [] ∧
    noRelease blocked.kwPrev ([((0x8001 : Word), (0 : Byte))].map Prod.fst) = true ∧ 15 < 16 ∧
    (lastSample blocked.kwPrev ([((0x8001 : Word), (0 : Byte))].map Prod.fst) &&& ~~~ (0x0001 : Word)).getLsbD 15 =
      true ∧
    ∀ j < 15, (lastSample blocked.kwPrev ([((0x8001 : Word), (0 : Byte))].map Prod.fst) &&&
      ~~~ (0x0001 : Word)).getLsbD j = false := by decide

/-! ### The first instruction after reset -/

/-- A word placed at reset is fetched and run by the next step. -/
theorem test_withFetchWord : after (step (State.reset.withFetchWord 16 0x612A))
    (fun t => getV t 1 == 0x2A && t.pc == 0x0202 && t.ir == 0x612A && t.events == []) = true := by decide

end Sys2Proof.Tests
end

/-! SUPPORT. What an instruction can do to the state, said once for all 34 of them (spec/10_state.md R20, R25):
the ways an instruction can end, and from them what each element keeps. -/

namespace Sys2Proof.Machine

/-! ### The ways an instruction ends -/

/-- What an instruction may leave of the state `s` it was executed in: one constructor per group of elements that
R20 says are written together. New contents are left open unless a bound on them matters to a later step. -/
inductive Effect (s : State) : Instr → State → Prop
  /-- A register destination, or a flag (spec/10_state.md R22, R23). -/
  | regs {i : Instr} (v : Vector Byte 16) (hi : writesRegs i = true) : Effect s i { s with v := v }
  /-- JP and JP V0: no jump target is above 0x10FE (spec/10_state.md R26). -/
  | jump {i : Instr} (w : Word) (hi : writesPc i = true) (hw : w.toNat ≤ 0x10FE) :
      Effect s i { s with pc := w }
  /-- A skip, taken or not (spec/41_control_flow.md R150). -/
  | skip {i : Instr} (p : Bool) (hi : writesPc i = true) :
      Effect s i { s with pc := if p then s.pc + 2 else s.pc }
  | call (nnn : Addr) (h : s.sp.val < 16) :
      Effect s (.call nnn) { s with
        pc := zextAddr nnn, stack := s.stack.set s.sp.val s.pc, sp := ⟨s.sp.val + 1, by omega⟩ }
  | ret (h : 0 < s.sp.val) :
      Effect s .ret { s with pc := s.stack[s.sp.val - 1], sp := ⟨s.sp.val - 1, by omega⟩ }
  | index {i : Instr} (w : Word)
      (hi : (∃ nnn, i = .ldI nnn) ∨ (∃ x, i = .addI x) ∨ ∃ x, i = .ldF x) : Effect s i { s with i := w }
  | clear (fb : FrameBuf) : Effect s .cls { s with fb := fb, dirty := true }
  | draw (x y : Reg) (n : Nibble) (v : Vector Byte 16) (fb : FrameBuf) :
      Effect s (.drw x y n) { s with v := v, fb := fb, dirty := true }
  /-- LD B and LD [I], with their check passed (spec/20_memory.md R66). -/
  | store {i : Instr} (bs : List Byte) (hi : (∃ x, i = .ldB x) ∨ ∃ x, i = .ldMemVx x)
      (hb : baseAddr s + bs.length ≤ 0x1000) : Effect s i (writeBytes s (baseAddr s) bs)
  | delay (x : Reg) (b : Byte) : Effect s (.ldDT x) { s with dt := b }
  | sound (x : Reg) (b : Byte) : Effect s (.ldST x) { s with st := b }
  | keyWait (x : Reg) (v : Vector Byte 16) (kw : KwState) (prev : Word) :
      Effect s (.ldVxK x) { s with v := v, kwState := kw, kwPrev := prev }
  /-- The one check of the instruction fails (spec/60_exceptions.md R266, R269). -/
  | fault {i : Instr} (k : ErrKind) (hk : faultOf i s = some k) : Effect s i (raise k s)

theorem toNat_zextAddr (nnn : Addr) : (zextAddr nnn).toNat = nnn.toNat := by
  have := nnn.isLt
  simp [zextAddr]; omega

theorem toNat_zextAddr_le (nnn : Addr) : (zextAddr nnn).toNat ≤ 0xFFF := by
  have := nnn.isLt
  rw [toNat_zextAddr]; omega

/-- `nnn` + `V[0]` is at most 0xFFF + 0xFF, so the 16-bit sum loses nothing (spec/41_control_flow.md R158). -/
theorem toNat_ofNat_addr_add_byte_le (nnn : Addr) (b : Byte) :
    (BitVec.ofNat 16 (nnn.toNat + b.toNat)).toNat ≤ 0x10FE := by
  have := nnn.isLt
  have := b.isLt
  rw [BitVec.toNat_ofNat]; omega

/-- A skip, whatever its condition. -/
theorem skipIf_effect {i : Instr} {s : State} (p : Bool) (hx : exec i s = .next (skipIf p s))
    (hi : writesPc i = true) : ∃ t, exec i s = .next t ∧ Effect s i t :=
  ⟨_, by rw [hx, skipIf_eq], .skip p hi⟩

/-- Every instruction goes to a next state, and in one of the ways of `Effect`. -/
theorem exec_effect (i : Instr) (s : State) : ∃ t, exec i s = .next t ∧ Effect s i t := by
  cases i with
  | ldImm x kk | addImm x kk | ldReg x y | orReg x y | andReg x y | xorReg x y | addReg x y | subReg x y
  | shr x y | subnReg x y | shl x y | rnd x kk | ldVxDT x => exact ⟨_, rfl, .regs _ rfl⟩
  | seImm x kk | sneImm x kk | seReg x y | sneReg x y | skp x | sknp x => exact skipIf_effect _ rfl rfl
  | jp nnn => exact ⟨_, rfl, .jump _ rfl ((toNat_zextAddr_le nnn).trans (by decide))⟩
  | jpV0 nnn => exact ⟨_, rfl, .jump _ rfl (toNat_ofNat_addr_add_byte_le nnn _)⟩
  | call nnn =>
    obtain ⟨hsp, hp⟩ | ⟨hsp, hp⟩ := push_cases s.pc s
    · exact ⟨_, by rw [exec, execCall, hp], .fault _ (if_pos hsp)⟩
    · exact ⟨_, by rw [exec, execCall, hp]; rfl, .call nnn hsp⟩
  | ret =>
    obtain ⟨hsp, hp⟩ | ⟨hsp, hp⟩ := pop_cases s
    · exact ⟨_, by rw [exec, execRet, hp], .fault _ (if_pos hsp)⟩
    · exact ⟨_, by rw [exec, execRet, hp]; rfl, .ret hsp⟩
  | ldI nnn => exact ⟨_, rfl, .index _ (.inl ⟨nnn, rfl⟩)⟩
  | addI x => exact ⟨_, rfl, .index _ (.inr (.inl ⟨x, rfl⟩))⟩
  | ldF x => exact ⟨_, rfl, .index _ (.inr (.inr ⟨x, rfl⟩))⟩
  | cls => exact ⟨_, rfl, .clear _⟩
  | drw x y n =>
    obtain ⟨-, hr⟩ | ⟨hbad, hr⟩ := memRead_cases s (baseAddr s) n.toNat
    · exact ⟨_, by rw [exec, execDrw, hr]; rfl, .draw x y n _ _⟩
    · exact ⟨_, by rw [exec, execDrw, hr], .fault _ (if_pos hbad)⟩
  | ldB x =>
    obtain ⟨hok, hw⟩ | ⟨hbad, hw⟩ := memWrite_cases s (baseAddr s) (bcdBytes (getV s x))
    · exact ⟨_, by rw [exec, execLdB, hw], .store _ (.inl ⟨x, rfl⟩) (hok.resolve_left (by simp [bcdBytes]))⟩
    · have hfault : s.i.toNat + 2 > 0xFFF := Nat.le_of_succ_le_succ hbad.2
      exact ⟨_, by rw [exec, execLdB, hw], .fault _ (if_pos hfault)⟩
  | ldMemVx x =>
    obtain ⟨hok, hw⟩ | ⟨hbad, hw⟩ := memWrite_cases s (baseAddr s) (regBlock s x)
    · exact ⟨_, by rw [exec, execLdMemVx, hw],
        .store _ (.inr ⟨x, rfl⟩) (hok.resolve_left (by simp [length_regBlock]))⟩
    · rw [length_regBlock] at hbad
      exact ⟨_, by rw [exec, execLdMemVx, hw], .fault _ (if_pos (Nat.le_of_succ_le_succ hbad.2))⟩
  | ldVxMem x =>
    obtain ⟨-, hr⟩ | ⟨hbad, hr⟩ := memRead_cases s (baseAddr s) (x.toNat + 1)
    · exact ⟨_, by rw [exec, execLdVxMem, hr], .regs _ rfl⟩
    · exact ⟨_, by rw [exec, execLdVxMem, hr], .fault _ (if_pos (Nat.le_of_succ_le_succ hbad.2))⟩
  | ldDT x => exact ⟨_, rfl, .delay x _⟩
  | ldST x => exact ⟨_, rfl, .sound x _⟩
  | ldVxK x =>
    cases hk : s.kwState with
    | idle => exact ⟨_, by rw [exec, execLdVxK, hk], .keyWait x s.v _ _⟩
    | armed =>
      by_cases hrel : releasedKeys s = 0
      · exact ⟨_, by rw [exec, execLdVxK, hk]; exact if_pos hrel, .keyWait x s.v _ _⟩
      · exact ⟨_, by rw [exec, execLdVxK, hk]; exact if_neg hrel, .keyWait x _ _ _⟩

/-- What an executed instruction did is one of the ways of `Effect`. -/
theorem effect_of_exec {i : Instr} {s t : State} (h : exec i s = .next t) : Effect s i t := by
  obtain ⟨u, hu, he⟩ := exec_effect i s
  rw [h] at hu
  cases hu
  exact he

theorem isRunTimeFault_of_faultOf {i : Instr} {s : State} {k : ErrKind} (h : faultOf i s = some k) :
    isRunTimeFault k = true := by
  unfold faultOf at h
  split at h <;> simp only [reduceCtorEq, Option.ite_none_right_eq_some, Option.some.injEq] at h
  all_goals obtain ⟨-, rfl⟩ := h; rfl

/-! ### What each element keeps -/

namespace Effect
variable {i : Instr} {s t : State}

theorem v_eq (h : Effect s i t) (hi : writesRegs i = false) : t.v = s.v := by
  cases h with
  | regs v hv => rw [hv] at hi; contradiction
  | draw | keyWait => contradiction
  | _ => rfl

theorem pc_eq (h : Effect s i t) (hi : writesPc i = false) : t.pc = s.pc := by
  cases h with
  | jump w hp | skip p hp => rw [hp] at hi; contradiction
  | call | ret => contradiction
  | _ => rfl

theorem stack_eq (h : Effect s i t) (hi : ∀ nnn, i ≠ .call nnn) : t.stack = s.stack := by
  cases h with
  | call nnn => exact absurd rfl (hi nnn)
  | _ => rfl

theorem sp_eq (h : Effect s i t) (hc : ∀ nnn, i ≠ .call nnn) (hr : i ≠ .ret) : t.sp = s.sp := by
  cases h with
  | call nnn => exact absurd rfl (hc nnn)
  | ret => exact absurd rfl hr
  | _ => rfl

theorem i_eq (h : Effect s i t) (hl : ∀ nnn, i ≠ .ldI nnn) (ha : ∀ x, i ≠ .addI x)
    (hf : ∀ x, i ≠ .ldF x) : t.i = s.i := by
  cases h with
  | index w hi =>
    obtain ⟨nnn, hi⟩ | ⟨x, hi⟩ | ⟨x, hi⟩ := hi
    · exact absurd hi (hl nnn)
    · exact absurd hi (ha x)
    · exact absurd hi (hf x)
  | _ => rfl

theorem display_eq (h : Effect s i t) (hc : i ≠ .cls) (hd : ∀ x y n, i ≠ .drw x y n) :
    t.fb = s.fb ∧ t.dirty = s.dirty := by
  cases h with
  | clear => exact absurd rfl hc
  | draw x y n => exact absurd rfl (hd x y n)
  | _ => exact ⟨rfl, rfl⟩

theorem mem_eq (h : Effect s i t) (hb : ∀ x, i ≠ .ldB x) (hm : ∀ x, i ≠ .ldMemVx x) : t.mem = s.mem := by
  cases h with
  | store bs hi =>
    obtain ⟨x, hi⟩ | ⟨x, hi⟩ := hi
    · exact absurd hi (hb x)
    · exact absurd hi (hm x)
  | _ => rfl

theorem dt_eq (h : Effect s i t) (hi : ∀ x, i ≠ .ldDT x) : t.dt = s.dt := by
  cases h with
  | delay x => exact absurd rfl (hi x)
  | _ => rfl

theorem st_eq (h : Effect s i t) (hi : ∀ x, i ≠ .ldST x) : t.st = s.st := by
  cases h with
  | sound x => exact absurd rfl (hi x)
  | _ => rfl

theorem keyWait_eq (h : Effect s i t) (hi : ∀ x, i ≠ .ldVxK x) :
    t.kwState = s.kwState ∧ t.kwPrev = s.kwPrev := by
  cases h with
  | keyWait x => exact absurd rfl (hi x)
  | _ => exact ⟨rfl, rfl⟩

theorem status_eq (h : Effect s i t) (hf : faultOf i s = none) :
    t.runState = s.runState ∧ t.errKind = s.errKind ∧ t.errWord = s.errWord ∧ t.errPc = s.errPc := by
  cases h with
  | fault k hk => rw [hk] at hf; contradiction
  | _ => exact ⟨rfl, rfl, rfl, rfl⟩

/-! No instruction writes the parameters, the count of RESETs, `IR`, `KEYS` or the published frame. -/

theorem params_eq (h : Effect s i t) : t.params = s.params := by
  cases h <;> rfl

theorem resets_eq (h : Effect s i t) : t.resets = s.resets := by
  cases h <;> rfl

theorem ir_eq (h : Effect s i t) : t.ir = s.ir := by
  cases h <;> rfl

theorem keys_snap_eq (h : Effect s i t) : t.keys = s.keys ∧ t.snap = s.snap ∧ t.snapValid = s.snapValid := by
  cases h <;> exact ⟨rfl, rfl, rfl⟩

theorem sameMemory (h : Effect s i t) (hb : ∀ x, i ≠ .ldB x) (hm : ∀ x, i ≠ .ldMemVx x) : SameMemory s t :=
  readByte_congr (h.mem_eq hb hm) h.params_eq h.resets_eq

end Effect

end Sys2Proof.Machine

/-! SUPPORT. The machine's invariant along every event (spec/10_state.md R26, R35, spec/60_exceptions.md R260). -/

namespace Sys2Proof

open Sys2Proof.Machine

theorem eq_ldVxK_of_isKeyWaitWord {w : Word} {i : Instr} (hk : isKeyWaitWord w = true) (hd : decode w = some i) :
    ∃ x, i = .ldVxK x := by
  unfold isKeyWaitWord at hk
  rw [hd] at hk
  cases i with
  | ldVxK x => exact ⟨x, rfl⟩
  | _ => contradiction

namespace Inv
variable {s : State}

/-- Taking an event leaves the machine itself alone. -/
theorem of_takeEvent (h : Inv s) : Inv (takeEvent s).2 := by
  obtain ⟨es, n, ht⟩ := takeEvent_state s
  rw [ht]
  exact { h with }

theorem sampleInputs (h : Inv s) (k : Word) (d : Byte) : Inv (sampleInputs k d s) :=
  { h with }

/-- Fault entry of a run-time fault: `RUNSTATE` and `ERR_KIND` move together (spec/60_exceptions.md R266). -/
theorem faultEntry (h : Inv s) {k : ErrKind} (hk : isRunTimeFault k = true) (w : Word) :
    Inv (faultEntry k w s) :=
  { h with haltedFault := by simp [hk] }

/-- Fetch advances `PC` to at most 0x1000, and no key wait is armed when it replaces `IR`. -/
theorem fetch (h : Inv s) (hk : s.kwState = .idle) (hp : s.pc.toNat ≤ 0xFFE) : Inv (fetch s) :=
  { h with
    armedWord := fun ha => by simp [hk] at ha
    pcBound := by simp only [fetch_pc]; bv_omega }

/-- Every run state but `Halted` may stand beside every `ERR_KIND` that is no run-time fault. -/
theorem setStatus (h : Inv s) {r : RunState} {e : ErrKind} (hr : r ≠ .halted) (he : isRunTimeFault e = false) :
    Inv { s with runState := r, errKind := e } :=
  { h with haltedFault := by simp [hr, he] }

theorem noFault (h : Inv s) (hr : s.runState ≠ .halted) : isRunTimeFault s.errKind = false := by
  rw [← Bool.not_eq_true]
  exact fun he => hr (h.haltedFault.2 he)

theorem setRunState (h : Inv s) {r : RunState} (hs : s.runState ≠ .halted) (hr : r ≠ .halted) :
    Inv { s with runState := r } :=
  h.setStatus hr (h.noFault hs)

theorem writeBytes (h : Inv s) (a : Nat) (bs : List Byte) (ha : a + bs.length ≤ 4096) :
    Inv (writeBytes s a bs) :=
  { h with memWf := wf_writeCells _ _ _ _ ha h.memWf }

/-! ### Execute -/

/-- The entries in use after a push are those before it and the one pushed. -/
theorem stackBound_push (h : Inv s) {w : Word} (hw : w.toNat ≤ 0x1000) (hsp : s.sp.val < 16) (k : Fin 16)
    (hk : k.val < s.sp.val + 1) : ((s.stack.set s.sp.val w)[k]).toNat ≤ 0x1000 := by
  rw [Fin.getElem_fin, Vector.getElem_set]
  split
  · exact hw
  · exact h.stackBound k (by omega)

/-- An instruction keeps the invariant when a fetch has put `PC` at most at 0x1000. Only the writers of `PC` need
that bound, so the blocked key wait, which fetches nothing, is covered (spec/40_execution_cycle.md R128). -/
theorem effect (h : Inv s) {i : Instr} {t : State} (he : Effect s i t) (hd : decode s.ir = some i)
    (hp : writesPc i = true → s.pc.toNat ≤ 0x1000) : Inv t := by
  cases he with
  | regs | index | clear | draw | delay | sound => exact { h with }
  | jump w _ hw => exact { h with pcBound := hw }
  | skip p hi =>
    refine { h with pcBound := ?_ }
    have := hp hi
    cases p <;> simp only [Bool.false_eq_true, if_false, if_true] <;> bv_omega
  | call nnn hsp =>
    exact { h with
      pcBound := (toNat_zextAddr_le nnn).trans (by decide)
      stackBound := h.stackBound_push (hp rfl) hsp }
  | ret hsp =>
    have htop := h.stackBound ⟨s.sp.val - 1, by omega⟩ (by simp only; omega)
    exact { h with
      pcBound := htop.trans (by decide)
      stackBound := fun k hk => h.stackBound k (by simp only at hk; omega) }
  | store bs _ hb => exact h.writeBytes _ _ hb
  | keyWait x => exact { h with armedWord := fun _ => by simp [isKeyWaitWord, hd] }
  | fault k hk => exact h.faultEntry (isRunTimeFault_of_faultOf hk) _

/-- Decode and execute, after a fetch or on the word of a blocked key wait. -/
theorem decodeAndExecute (h : Inv s) {t : State} (ht : decodeAndExecute s = .next t)
    (hp : s.pc.toNat ≤ 0x1000 ∨ isKeyWaitWord s.ir = true) : Inv t := by
  obtain ⟨-, he⟩ | ⟨i, hd, he⟩ := decodeAndExecute_cases s <;> rw [he] at ht
  · cases ht
    exact h.faultEntry rfl _
  · refine h.effect (effect_of_exec ht) hd fun hi => hp.resolve_right fun hk => ?_
    obtain ⟨x, rfl⟩ := eq_ldVxK_of_isKeyWaitWord hk hd
    contradiction

/-! ### The events -/

theorem cycle (h : Inv s) {k : Word} {d : Byte} {t : State} (ht : cycle k d s = .next t) : Inv t := by
  have hin := h.sampleInputs k d
  obtain ⟨-, hc⟩ | ⟨-, hk, hc⟩ | ⟨-, hk, hp, hc⟩ | ⟨-, -, -, hc⟩ := cycle_cases k d s <;> rw [hc] at ht
  · cases ht
    exact h
  · exact hin.decodeAndExecute ht (.inr (h.armedWord hk))
  · exact (hin.fetch hk hp).decodeAndExecute ht (.inl (by simp only [fetch_pc, sampleInputs_pc]; bv_omega))
  · cases ht
    exact hin.faultEntry rfl _

theorem tick (h : Inv s) (b : Bool) : Inv (tick b s) := by
  by_cases hr : s.runState = .running
  · rw [tick_of_running b hr]
    have : Inv { s with runState := if b then .stopped else .running } :=
      h.setRunState (by simp [hr]) (by cases b <;> simp)
    exact { this with }
  · rw [Machine.tick, if_neg hr]
    exact h

theorem startRun (h : Inv s) : Inv (startRun s) := by
  unfold Machine.startRun
  split
  · next hr => exact h.setRunState (by simp [hr]) (by decide)
  · exact h

theorem loadProgram (h : Inv s) (bytes : List Byte) : Inv (loadProgram bytes s) := by
  unfold Machine.loadProgram
  split
  · next hr =>
    have hne : s.runState ≠ .halted := by simp [hr]
    split
    · exact h.setStatus hne rfl
    · next hlen =>
      have hfit : 0x200 + bytes.length ≤ 4096 := by unfold progMax at hlen; omega
      exact (h.writeBytes 0x200 bytes hfit).setStatus hne rfl
  · exact h

theorem reset : Inv State.reset where
  memWf := wf_reset
  armedWord := by decide
  pcBound := by decide
  stackBound := fun k hk => absurd hk (Nat.not_lt_zero _)
  haltedFault := by decide

/-- RESET from any state: only the model's own fields are not those of `State.reset`, and the empty memory is
canonical under every `FONT` (log 20). -/
theorem powerOn (s : State) : Inv (powerOn s) :=
  { reset with memWf := rfl }

theorem serve (h : Inv s) {e : Event} {t : State} (ht : serve e s = .next t) : Inv t := by
  cases e with
  | cycle k d => exact h.cycle ht
  | reset => cases ht; exact powerOn s
  | load bytes => cases ht; exact h.loadProgram bytes
  | run => cases ht; exact h.startRun
  | tick b => cases ht; exact h.tick b

end Inv

end Sys2Proof

/-! SUPPORT. The parameters along every event, the flag register, and the elements that no instruction reads. -/

namespace Sys2Proof.Machine

/-! ### The parameters along every event (spec/10_state.md R39) -/

theorem decodeAndExecute_params {s t : State} (h : decodeAndExecute s = .next t) : t.params = s.params := by
  obtain ⟨-, he⟩ | ⟨i, -, he⟩ := decodeAndExecute_cases s <;> rw [he] at h
  · cases h
    rfl
  · exact (effect_of_exec h).params_eq

theorem cycle_params {k : Word} {d : Byte} {s t : State} (h : cycle k d s = .next t) : t.params = s.params := by
  obtain ⟨-, hc⟩ | ⟨-, -, hc⟩ | ⟨-, -, -, hc⟩ | ⟨-, -, -, hc⟩ := cycle_cases k d s <;> rw [hc] at h
  · cases h
    rfl
  · simpa using decodeAndExecute_params h
  · simpa using decodeAndExecute_params h
  · cases h
    rfl

@[simp] theorem tick_params (b : Bool) (s : State) : (tick b s).params = s.params := by
  by_cases hr : s.runState = .running
  · rw [tick_of_running b hr]
  · rw [tick, if_neg hr]

@[simp] theorem startRun_params (s : State) : (startRun s).params = s.params := by
  unfold startRun
  split <;> rfl

@[simp] theorem loadProgram_params (bytes : List Byte) (s : State) :
    (loadProgram bytes s).params = s.params := by
  unfold loadProgram
  split
  · split <;> rfl
  · rfl

@[simp] theorem powerOn_params (s : State) : (powerOn s).params = s.params := rfl

theorem takeEvent_params (s : State) : (takeEvent s).2.params = s.params := by
  obtain ⟨es, n, h⟩ := takeEvent_state s
  rw [h]

theorem serve_params {e : Event} {s t : State} (h : serve e s = .next t) : t.params = s.params := by
  cases e with
  | cycle k d => exact cycle_params h
  | reset => cases h; exact powerOn_params s
  | load bytes => cases h; exact loadProgram_params bytes s
  | run => cases h; exact startRun_params s
  | tick b => cases h; exact tick_params b s

/-! ### The flag register (spec/10_state.md R22) -/

theorem getV_setV_of_ne (s : State) {x y : Reg} (h : x ≠ y) (b : Byte) : getV (setV s x b) y = getV s y := by
  rw [getV_setV, if_neg (Ne.symm h)]

/-- A flag is the last write of its instruction, so `VF` holds it also at x = 15 (spec/10_state.md R23). -/
theorem getV_VF_flagByte (s : State) (x : Reg) (b : Byte) (p : Bool) :
    getV (setResultAndFlag s x b (flagByte p)) VF = 0 ∨ getV (setResultAndFlag s x b (flagByte p)) VF = 1 := by
  rw [getV_setResultAndFlag, if_pos rfl]
  exact flagByte_cases p

/-- DRW leaves the collision flag, or its MemoryFault leaves `VF` alone. -/
theorem execDrw_VF {x y : Reg} {n : Nibble} {s t : State} (h : execDrw x y n s = .next t) :
    (getV t VF = 0 ∨ getV t VF = 1) ∨ (t.runState = .halted ∧ getV t VF = getV s VF) := by
  obtain ⟨-, hr⟩ | ⟨-, hr⟩ := memRead_cases s (baseAddr s) n.toNat <;> rw [execDrw, hr] at h <;> cases h
  · rw [getV_setV, if_pos rfl]
    exact .inl (flagByte_cases _)
  · exact .inr ⟨rfl, rfl⟩

/-- LD Vx, [I] ends at `V[x]`, below `VF` unless x = 15. -/
theorem execLdVxMem_VF {x : Reg} {s t : State} (h : execLdVxMem x s = .next t) (hx : x ≠ VF) :
    getV t VF = getV s VF := by
  obtain ⟨-, hr⟩ | ⟨-, hr⟩ := memRead_cases s (baseAddr s) (x.toNat + 1) <;> rw [execLdVxMem, hr] at h <;> cases h
  · have hlt : x.toNat + 1 ≤ 15 := by bv_omega
    simp only [getV]
    rw [getElem_setRegs, dif_neg]
    rw [length_readBytes]
    exact fun hin => absurd hin.2 (by simp; omega)
  · rfl

theorem execLdVxK_VF {x : Reg} {s t : State} (h : execLdVxK x s = .next t) (hx : x ≠ VF) :
    getV t VF = getV s VF := by
  unfold execLdVxK at h
  split at h
  · cases h
    rfl
  · split at h <;> cases h
    · rfl
    · exact getV_setV_of_ne s hx _

/-! ### The elements no instruction reads (spec/10_state.md R20, R29, R37, spec/44_display.md R226) -/

/-- The contents of the elements of R20 that no instruction reads. -/
structure Hidden where
  st : Byte
  dirty : Bool
  snap : FrameBuf
  snapValid : Bool
  errKind : ErrKind
  errWord : Word
  errPc : Word

/-- The state with other contents in those elements. -/
def withHidden (s : State) (h : Hidden) : State :=
  { s with
    st := h.st, dirty := h.dirty, snap := h.snap, snapValid := h.snapValid,
    errKind := h.errKind, errWord := h.errWord, errPc := h.errPc }

/-- The contents of those elements in a state. -/
def hidden (s : State) : Hidden :=
  { st := s.st, dirty := s.dirty, snap := s.snap, snapValid := s.snapValid, errKind := s.errKind,
    errWord := s.errWord, errPc := s.errPc }

section withHidden
variable (s : State) (h : Hidden)

@[simp] theorem withHidden_pc : (withHidden s h).pc = s.pc := rfl
@[simp] theorem withHidden_kwState : (withHidden s h).kwState = s.kwState := rfl
@[simp] theorem getV_withHidden (x : Reg) : getV (withHidden s h) x = getV s x := rfl
@[simp] theorem baseAddr_withHidden : baseAddr (withHidden s h) = baseAddr s := rfl
@[simp] theorem regBlock_withHidden (x : Reg) : regBlock (withHidden s h) x = regBlock s x := rfl
@[simp] theorem releasedKeys_withHidden : releasedKeys (withHidden s h) = releasedKeys s := rfl

@[simp] theorem readByte_withHidden (a : Nat) : readByte (withHidden s h) a = readByte s a :=
  readByte_congr rfl rfl rfl a

@[simp] theorem readBytes_withHidden (a n : Nat) : readBytes (withHidden s h) a n = readBytes s a n := by
  induction n generalizing a with
  | zero => rfl
  | succ n ih => simp only [readBytes, readByte_withHidden, ih]

@[simp] theorem memRead_withHidden (a n : Nat) : memRead (withHidden s h) a n = memRead s a n := by
  simp only [memRead, readBytes_withHidden]

@[simp] theorem memWrite_withHidden (a : Nat) (bs : List Byte) :
    memWrite (withHidden s h) a bs = (memWrite s a bs).map (withHidden · h) := by
  unfold memWrite
  split <;> rfl

@[simp] theorem push_withHidden (w : Word) :
    push w (withHidden s h) = (push w s).map (withHidden · h) := by
  obtain ⟨hsp, hp⟩ | ⟨hsp, hp⟩ := push_cases w s <;> rw [hp]
  · exact dif_neg (show ¬ s.sp.val < 16 by omega)
  · exact dif_pos hsp

@[simp] theorem pop_withHidden :
    pop (withHidden s h) = (pop s).map fun p => (p.1, withHidden p.2 h) := by
  obtain ⟨hsp, hp⟩ | ⟨hsp, hp⟩ := pop_cases s <;> rw [hp]
  · exact dif_neg (show ¬ 0 < s.sp.val by omega)
  · exact dif_pos hsp

@[simp] theorem skipIf_withHidden (p : Bool) : skipIf p (withHidden s h) = withHidden (skipIf p s) h := by
  cases p <;> rfl

/-- What fault entry leaves in the hidden elements: the error registers anew, from `IR` and `PC`. -/
def Hidden.raised (k : ErrKind) : Hidden :=
  { h with errKind := k, errWord := s.ir, errPc := s.pc - 2 }

theorem raise_withHidden (k : ErrKind) :
    raise k (withHidden s h) = withHidden (raise k s) (h.raised s k) := rfl

end withHidden

/-- No instruction reads a hidden element: it does the same from `s` and from `withHidden s h`. -/
theorem exec_withHidden (i : Instr) (s : State) (h : Hidden) :
    ∃ t h', exec i s = .next t ∧ exec i (withHidden s h) = .next (withHidden t h') := by
  cases i with
  | ldImm | addImm | ldReg | orReg | andReg | xorReg | addReg | subReg | shr | subnReg | shl | rnd | ldVxDT
  | jp | jpV0 | ldI | addI | ldF | ldDT => exact ⟨_, h, rfl, rfl⟩
  | seImm | sneImm | seReg | sneReg | skp | sknp => exact ⟨_, h, rfl, congrArg _ (skipIf_withHidden s h _)⟩
  | ldST x => exact ⟨_, { h with st := getV s x }, rfl, rfl⟩
  | cls => exact ⟨_, { h with dirty := true }, rfl, rfl⟩
  | call nnn =>
    simp only [exec, execCall, withHidden_pc, push_withHidden]
    cases push s.pc s with
    | none => exact ⟨_, _, rfl, congrArg _ (raise_withHidden s h .stackOverflow)⟩
    | some t => exact ⟨_, h, rfl, rfl⟩
  | ret =>
    simp only [exec, execRet, pop_withHidden]
    cases pop s with
    | none => exact ⟨_, _, rfl, congrArg _ (raise_withHidden s h .stackUnderflow)⟩
    | some p => exact ⟨_, h, rfl, rfl⟩
  | drw x y n =>
    simp only [exec, execDrw, memRead_withHidden, baseAddr_withHidden]
    cases memRead s (baseAddr s) n.toNat with
    | none => exact ⟨_, _, rfl, congrArg _ (raise_withHidden s h .memoryFault)⟩
    | some sprite => exact ⟨_, { h with dirty := true }, rfl, rfl⟩
  | ldVxMem x =>
    simp only [exec, execLdVxMem, memRead_withHidden, baseAddr_withHidden]
    cases memRead s (baseAddr s) (x.toNat + 1) with
    | none => exact ⟨_, _, rfl, congrArg _ (raise_withHidden s h .memoryFault)⟩
    | some bytes => exact ⟨_, h, rfl, rfl⟩
  | ldB x =>
    simp only [exec, execLdB, memWrite_withHidden, baseAddr_withHidden, getV_withHidden]
    cases memWrite s (baseAddr s) (bcdBytes (getV s x)) with
    | none => exact ⟨_, _, rfl, congrArg _ (raise_withHidden s h .memoryFault)⟩
    | some t => exact ⟨_, h, rfl, rfl⟩
  | ldMemVx x =>
    simp only [exec, execLdMemVx, memWrite_withHidden, baseAddr_withHidden, regBlock_withHidden]
    cases memWrite s (baseAddr s) (regBlock s x) with
    | none => exact ⟨_, _, rfl, congrArg _ (raise_withHidden s h .memoryFault)⟩
    | some t => exact ⟨_, h, rfl, rfl⟩
  | ldVxK x =>
    simp only [exec, execLdVxK, withHidden_kwState, releasedKeys_withHidden]
    cases s.kwState with
    | idle => exact ⟨_, h, rfl, rfl⟩
    | armed =>
      by_cases hrel : releasedKeys s = 0 <;> simp only [hrel, if_true, if_false]
      · exact ⟨_, h, rfl, rfl⟩
      · exact ⟨_, h, rfl, rfl⟩

end Sys2Proof.Machine

/-! The statements about the state (spec/10_state.md), each from the lemmas above. -/

namespace Sys2Proof.Proofs

open Sys2Proof.Machine

/-- Settles O27: the event is taken, then served. -/
theorem everyStepKeepsTheInvariant : Obligations.EveryStepKeepsTheInvariant := by
  intro s t h ht
  rw [step_eq_serve] at ht
  exact h.of_takeEvent.serve ht

/-- Settles O29: the event is taken, then served. -/
theorem noStepChangesTheParameters : Obligations.NoStepChangesTheParameters := by
  intro s t h
  rw [step_eq_serve] at h
  exact (serve_params h).trans (takeEvent_params s)

/-- Settles O30: each clause is one row of `Effect`. -/
theorem eachElementIsWrittenOnlyByItsInstructions :
    Obligations.EachElementIsWrittenOnlyByItsInstructions := by
  intro i s t h
  have he := effect_of_exec h
  obtain ⟨hkeys, hsnap, hvalid⟩ := he.keys_snap_eq
  exact ⟨he.v_eq, he.pc_eq, he.stack_eq, he.sp_eq, he.i_eq, he.display_eq,
    fun hb hm => ⟨he.sameMemory hb hm, he.mem_eq hb hm⟩, he.dt_eq, he.st_eq, he.keyWait_eq, he.status_eq,
    hkeys, he.ir_eq, hsnap, hvalid⟩

/-- Settles O31: a flag is `flagByte`, a destination other than `VF` leaves `VF`, and the rest write no register. -/
theorem flagRegisterIsWrittenOnlyByFlagWriters : Obligations.FlagRegisterIsWrittenOnlyByFlagWriters := by
  intro i s t h
  cases i with
  | addReg x y | subReg x y | shr x y | subnReg x y | shl x y => cases h; exact getV_VF_flagByte ..
  | drw x y n => exact execDrw_VF h
  | ldImm x kk | addImm x kk | ldReg x y | orReg x y | andReg x y | xorReg x y | rnd x kk | ldVxDT x =>
    cases h
    exact fun hx => getV_setV_of_ne s hx _
  | ldVxK x => exact execLdVxK_VF h
  | ldVxMem x => exact execLdVxMem_VF h
  | _ => exact getV_congr ((effect_of_exec h).v_eq rfl) VF

/-- Settles O32: the second state is the first with its own hidden elements put in. -/
theorem hiddenElementsDoNotFlowIntoTheProgram : Obligations.HiddenElementsDoNotFlowIntoTheProgram := by
  intro i s s' hs
  obtain ⟨t, h', ht, ht'⟩ := exec_withHidden i s (hidden s')
  exact ⟨t, withHidden t h', ht, by rw [hs]; exact ht', rfl⟩

/-- Settles O8: `State.reset` as written, the font as what address 0 to 79 holds when nothing is listed. -/
theorem resetLeavesTheSpecifiedValues : Obligations.ResetLeavesTheSpecifiedValues := by
  refine ⟨fun x => ?_, rfl, fun r c => ?_, fun a h => ?_, rfl, rfl, rfl, rfl, rfl, rfl, rfl, rfl, rfl, rfl⟩
  · simp [getV, State.reset]
  · simp [pixel, State.reset]
  · have hfont : unlisted State.reset.params.font a = some State.reset.params.font[a] := by simp [unlisted, h]
    simp [readByte_eq_known, known, lookup, hfont, show State.reset.mem = [] from rfl]

/-- Settles O26. -/
theorem statusCodesAreAsTabulated : Obligations.StatusCodesAreAsTabulated :=
  ⟨rfl, rfl, rfl, rfl, rfl, rfl, rfl, rfl, rfl, rfl⟩

/-- Settles O28. -/
theorem resetMeetsTheInvariant : Obligations.ResetMeetsTheInvariant := Inv.reset

end Sys2Proof.Proofs

/-! SUPPORT. What a LOAD does in each of its three cases (spec/20_memory.md R70). -/

namespace Sys2Proof.Machine

section loadProgram
variable {s : State} {bytes : List Byte}

theorem loadProgram_of_fits (hr : s.runState = .idle) (hlen : bytes.length ≤ progMax) :
    loadProgram bytes s = { writeBytes s 0x200 bytes with errKind := .none } := by
  rw [loadProgram, if_pos hr, if_neg (Nat.not_lt.2 hlen)]

theorem loadProgram_of_tooLarge (hr : s.runState = .idle) (hlen : progMax < bytes.length) :
    loadProgram bytes s = { s with errKind := .programTooLarge } := by
  rw [loadProgram, if_pos hr, if_pos hlen]

theorem loadProgram_of_not_idle (hr : s.runState ≠ .idle) : loadProgram bytes s = s := by
  rw [loadProgram, if_neg hr]

/-- The step whose next listed event is a LOAD. -/
theorem step_of_load {es : List Event} (h : s.events = .load bytes :: es) :
    step s = .next (loadProgram bytes { s with events := es }) :=
  step_of_events h

end loadProgram

end Sys2Proof.Machine

/-! The statements about memory (spec/20_memory.md), each from the lemmas above. -/

namespace Sys2Proof.Proofs

open Sys2Proof.Machine

/-- Settles O11: a read sees memory, the font and the count of RESETs alone, so the image reads back as after
`writeBytes`, whatever the events and `ERR_KIND` are. -/
theorem loadWritesTheImageAt0x200 : Obligations.LoadWritesTheImageAt0x200 := by
  intro s es bytes he hr hlen
  refine ⟨{ writeBytes s 0x200 bytes with errKind := .none, events := es }, ?_, fun k hk => ?_,
    fun a ha => ?_, rfl, rfl⟩
  · rw [step_of_load he]
    exact congrArg _ (loadProgram_of_fits hr hlen)
  · exact (readByte_congr rfl rfl rfl _).trans (readByte_writeBytes_inside s 0x200 bytes k hk)
  · exact (readByte_congr rfl rfl rfl a).trans (readByte_writeBytes_outside s 0x200 bytes a ha)

/-- Settles O12: the size is looked at in `Idle` alone. -/
theorem tooLargeOrMistimedLoadWritesNothing : Obligations.TooLargeOrMistimedLoadWritesNothing := by
  intro s es bytes he
  rw [step_of_load he]
  exact ⟨fun hr hlen => congrArg _ (loadProgram_of_tooLarge hr hlen),
    fun hr => congrArg _ (loadProgram_of_not_idle hr)⟩

end Sys2Proof.Proofs

/-! SUPPORT. The encoding (spec/30_encoding.md): what the decoder reads from a word of each format, the word put back
together from its fields, and the word of a row of R105 put back together from its mask. -/

namespace Sys2Proof

/-! ### Decoding a word of a format (R92, R95 to R98) -/

theorem wordNNN_inj {op : Nibble} {a b : Addr} : wordNNN op a = wordNNN op b ↔ a = b :=
  ⟨fun h => by simpa using congrArg nnnField h, congrArg _⟩

theorem decode_wordNNN_0 (nnn : Addr) : decode (wordNNN 0x0 nnn) =
    if nnn = 0x0E0 then some .cls else if nnn = 0x0EE then some .ret else none := by
  rw [decode, opField_wordNNN]
  change (if wordNNN 0x0 nnn = wordNNN 0x0 0x0E0 then some Instr.cls
    else if wordNNN 0x0 nnn = wordNNN 0x0 0x0EE then some Instr.ret else none) = _
  simp only [wordNNN_inj]

theorem decode_wordXYN_8 (x y : Reg) (n : Nibble) : decode (wordXYN 0x8 x y n) = decodeFamily8 x y n := by
  simp [decode]

theorem decode_wordXKK_E (x : Reg) (kk : Byte) : decode (wordXKK 0xE x kk) = decodeFamilyE x kk := by
  simp [decode]

theorem decode_wordXKK_F (x : Reg) (kk : Byte) : decode (wordXKK 0xF x kk) = decodeFamilyF x kk := by
  simp [decode]

theorem decodeFamily8_of_unlisted (x y : Reg) :
    ∀ n ∈ [0x8#4, 0x9#4, 0xA#4, 0xB#4, 0xC#4, 0xD#4, 0xF#4], decodeFamily8 x y n = none := by
  simp [decodeFamily8]

theorem decodeFamilyE_eq (x : Reg) (kk : Byte) : decodeFamilyE x kk =
    if kk = 0x9E then some (.skp x) else if kk = 0xA1 then some (.sknp x) else none := by
  simp only [decodeFamilyE, BitVec.toNat_eq]
  split <;> simp_all

theorem decodeFamilyF_eq (x : Reg) (kk : Byte) : decodeFamilyF x kk =
    if kk = 0x07 then some (.ldVxDT x) else if kk = 0x0A then some (.ldVxK x)
    else if kk = 0x15 then some (.ldDT x) else if kk = 0x18 then some (.ldST x)
    else if kk = 0x1E then some (.addI x) else if kk = 0x29 then some (.ldF x)
    else if kk = 0x33 then some (.ldB x) else if kk = 0x55 then some (.ldMemVx x)
    else if kk = 0x65 then some (.ldVxMem x) else none := by
  simp only [decodeFamilyF, BitVec.toNat_eq]
  split <;> simp_all

/-- The families that select by more than `op` have an equation of their own; the others read the fields alone. -/
theorem decode_encode (i : Instr) : decode (encode i) = some i := by
  cases i with
  | cls | ret => rfl
  | ldReg x y | orReg x y | andReg x y | xorReg x y | addReg x y | subReg x y | shr x y | subnReg x y
  | shl x y => exact decode_wordXYN_8 x y _
  | skp x | sknp x => exact decode_wordXKK_E x _
  | ldVxDT x | ldVxK x | ldDT x | ldST x | addI x | ldF x | ldB x | ldMemVx x | ldVxMem x =>
    exact decode_wordXKK_F x _
  | jp | call | seImm | sneImm | seReg | ldImm | addImm | sneReg | ldI | jpV0 | rnd | drw =>
    simp [encode, decode]

theorem decodeBytes_of_decode {w : Word} {i : Instr} (h : decode w = some i) (rest : List Byte) :
    decodeBytes (bytesOfWord w ++ rest) = .ok (i, rest) := by
  simp only [bytesOfWord, List.cons_append, List.nil_append, decodeBytes, wordOfBytes_bytes, h]

/-! ### A word from its fields (R91) -/

theorem wordNNN_fields (w : Word) : wordNNN (opField w) (nnnField w) = w := by
  apply BitVec.eq_of_getLsbD_eq
  intro k hk
  simp only [getLsbD_wordNNN, opField, nnnField, BitVec.getLsbD_extractLsb']
  interval_cases k <;> simp

theorem wordXKK_fields (w : Word) : wordXKK (opField w) (xField w) (kkField w) = w := by
  apply BitVec.eq_of_getLsbD_eq
  intro k hk
  simp only [getLsbD_wordXKK, opField, xField, kkField, BitVec.getLsbD_extractLsb']
  interval_cases k <;> simp

theorem wordXYN_fields (w : Word) : wordXYN (opField w) (xField w) (yField w) (nField w) = w := by
  apply BitVec.eq_of_getLsbD_eq
  intro k hk
  simp only [getLsbD_wordXYN, opField, xField, yField, nField, BitVec.getLsbD_extractLsb']
  interval_cases k <;> simp

/-! ### The instruction a word decodes to (R94) -/

section opField
variable {w : Word} {op : Nibble}

theorem wordNNN_of_opField (h : opField w = op) : wordNNN op (nnnField w) = w := by
  rw [← h, wordNNN_fields]

theorem wordXKK_of_opField {kk : Byte} (h : opField w = op) (hkk : kkField w = kk) :
    wordXKK op (xField w) kk = w := by
  rw [← h, ← hkk, wordXKK_fields]

theorem wordXYN_of_opField {n : Nibble} (h : opField w = op) (hn : nField w = n) :
    wordXYN op (xField w) (yField w) n = w := by
  rw [← h, ← hn, wordXYN_fields]

end opField

theorem encode_of_decodeFamily8 {x y : Reg} {n : Nibble} {i : Instr} (h : decodeFamily8 x y n = some i) :
    encode i = wordXYN 0x8 x y n := by
  unfold decodeFamily8 at h
  split at h <;> cases h
  all_goals next hn => exact congrArg (wordXYN 0x8 x y) (BitVec.eq_of_toNat_eq hn.symm)

theorem encode_of_decodeFamilyE {x : Reg} {kk : Byte} {i : Instr} (h : decodeFamilyE x kk = some i) :
    encode i = wordXKK 0xE x kk := by
  unfold decodeFamilyE at h
  split at h <;> cases h
  all_goals next hkk => exact congrArg (wordXKK 0xE x) (BitVec.eq_of_toNat_eq hkk.symm)

theorem encode_of_decodeFamilyF {x : Reg} {kk : Byte} {i : Instr} (h : decodeFamilyF x kk = some i) :
    encode i = wordXKK 0xF x kk := by
  unfold decodeFamilyF at h
  split at h <;> cases h
  all_goals next hkk => exact congrArg (wordXKK 0xF x) (BitVec.eq_of_toNat_eq hkk.symm)

/-- The case `h_k` is family `k - 1` of the decoder tree (R106). -/
theorem encode_of_decode {w : Word} {i : Instr} (h : decode w = some i) : encode i = w := by
  unfold decode at h
  split at h
  case h_1 =>
    split at h
    · next hw => cases h; exact hw.symm
    · split at h <;> cases h
      next hw => exact hw.symm
  case h_2 hop | h_3 hop | h_11 hop | h_12 hop =>
    cases h
    exact wordNNN_of_opField (BitVec.eq_of_toNat_eq hop)
  case h_4 hop | h_5 hop | h_7 hop | h_8 hop | h_13 hop =>
    cases h
    exact wordXKK_of_opField (BitVec.eq_of_toNat_eq hop) rfl
  case h_6 hop | h_10 hop =>
    split at h <;> cases h
    next hn => exact wordXYN_of_opField (BitVec.eq_of_toNat_eq hop) hn
  case h_14 hop =>
    cases h
    exact wordXYN_of_opField (BitVec.eq_of_toNat_eq hop) rfl
  case h_9 hop => exact (encode_of_decodeFamily8 h).trans (wordXYN_of_opField (BitVec.eq_of_toNat_eq hop) rfl)
  case h_15 hop => exact (encode_of_decodeFamilyE h).trans (wordXKK_of_opField (BitVec.eq_of_toNat_eq hop) rfl)
  case h_16 =>
    have hop : (opField w).toNat = (0xF#4).toNat := by
      simp only [imp_false] at *
      change _ = 15
      omega
    exact (encode_of_decodeFamilyF h).trans (wordXKK_of_opField (BitVec.eq_of_toNat_eq hop) rfl)

/-! ### The opcode table (R105) -/

section mask
variable {w : Word} {op : Nibble}

theorem wordNNN_of_mask (h : w &&& 0xF000#16 = wordNNN op 0) : wordNNN op (nnnField w) = w := by
  rw [← wordNNN_fields w, Laws.wordNNN_mask] at h
  exact wordNNN_of_opField (by simpa using congrArg opField h)

theorem wordXKK_of_mask_op (h : w &&& 0xF000#16 = wordXKK op 0 0) :
    wordXKK op (xField w) (kkField w) = w := by
  rw [← wordXKK_fields w, Laws.wordXKK_mask_op] at h
  exact wordXKK_of_opField (by simpa using congrArg opField h) rfl

theorem wordXKK_of_mask_sub {kk : Byte} (h : w &&& 0xF0FF#16 = wordXKK op 0 kk) :
    wordXKK op (xField w) kk = w := by
  rw [← wordXKK_fields w, Laws.wordXKK_mask_sub] at h
  exact wordXKK_of_opField (by simpa using congrArg opField h)
    (by simpa using congrArg kkField h)

theorem wordXYN_of_mask_op (h : w &&& 0xF000#16 = wordXYN op 0 0 0) :
    wordXYN op (xField w) (yField w) (nField w) = w := by
  rw [← wordXYN_fields w, Laws.wordXYN_mask_op] at h
  exact wordXYN_of_opField (by simpa using congrArg opField h) rfl

theorem wordXYN_of_mask_n {n : Nibble} (h : w &&& 0xF00F#16 = wordXYN op 0 0 n) :
    wordXYN op (xField w) (yField w) n = w := by
  rw [← wordXYN_fields w, Laws.wordXYN_mask_n] at h
  exact wordXYN_of_opField (by simpa using congrArg opField h)
    (by simpa using congrArg nField h)

theorem eq_of_mask_all {c : Word} (h : w &&& 0xFFFF#16 = c) : c = w := by
  rw [← h]
  exact BitVec.and_allOnes

end mask

/-- Row by row, by the format that gives the row its mask (R92). -/
theorem encode_instr_of_matchesWord :
    ∀ r ∈ opcodeTable, ∀ w, r.matchesWord w = true → encode (r.instr w) = w := by
  simp only [opcodeTable, opcodeTableLow, opcodeTableHigh, List.cons_append, List.nil_append,
    List.forall_mem_cons, OpRow.matchesWord, beq_iff_eq]
  exact ⟨fun _ h => eq_of_mask_all h, fun _ h => eq_of_mask_all h,
    fun _ h => wordNNN_of_mask h, fun _ h => wordNNN_of_mask h,
    fun _ h => wordXKK_of_mask_op h, fun _ h => wordXKK_of_mask_op h, fun _ h => wordXYN_of_mask_n h,
    fun _ h => wordXKK_of_mask_op h, fun _ h => wordXKK_of_mask_op h,
    fun _ h => wordXYN_of_mask_n h, fun _ h => wordXYN_of_mask_n h, fun _ h => wordXYN_of_mask_n h,
    fun _ h => wordXYN_of_mask_n h, fun _ h => wordXYN_of_mask_n h, fun _ h => wordXYN_of_mask_n h,
    fun _ h => wordXYN_of_mask_n h, fun _ h => wordXYN_of_mask_n h, fun _ h => wordXYN_of_mask_n h,
    fun _ h => wordXYN_of_mask_n h, fun _ h => wordNNN_of_mask h, fun _ h => wordNNN_of_mask h,
    fun _ h => wordXKK_of_mask_op h, fun _ h => wordXYN_of_mask_op h,
    fun _ h => wordXKK_of_mask_sub h, fun _ h => wordXKK_of_mask_sub h, fun _ h => wordXKK_of_mask_sub h,
    fun _ h => wordXKK_of_mask_sub h, fun _ h => wordXKK_of_mask_sub h, fun _ h => wordXKK_of_mask_sub h,
    fun _ h => wordXKK_of_mask_sub h, fun _ h => wordXKK_of_mask_sub h, fun _ h => wordXKK_of_mask_sub h,
    fun _ h => wordXKK_of_mask_sub h, fun _ h => wordXKK_of_mask_sub h, nofun⟩

theorem decode_of_matchesWord {r : OpRow} {w : Word} (hr : r ∈ opcodeTable) (hm : r.matchesWord w = true) :
    decode w = some (r.instr w) := by
  have h := decode_encode (r.instr w)
  rwa [encode_instr_of_matchesWord r hr w hm] at h

open Laws.EncodingMatchesRow in
theorem encodingMatchesRow : ∀ i : Instr, Statement i
  | .cls => cls | .ret => ret | .jp a => jp a | .call a => call a
  | .seImm x b => seImm x b | .sneImm x b => sneImm x b | .seReg x y => seReg x y
  | .ldImm x b => ldImm x b | .addImm x b => addImm x b | .ldReg x y => ldReg x y
  | .orReg x y => orReg x y | .andReg x y => andReg x y | .xorReg x y => xorReg x y
  | .addReg x y => addReg x y | .subReg x y => subReg x y | .shr x y => shr x y
  | .subnReg x y => subnReg x y | .shl x y => shl x y | .sneReg x y => sneReg x y
  | .ldI a => ldI a | .jpV0 a => jpV0 a | .rnd x b => rnd x b | .drw x y n => drw x y n
  | .skp x => skp x | .sknp x => sknp x | .ldVxDT x => ldVxDT x | .ldVxK x => ldVxK x
  | .ldDT x => ldDT x | .ldST x => ldST x | .addI x => addI x | .ldF x => ldF x | .ldB x => ldB x
  | .ldMemVx x => ldMemVx x | .ldVxMem x => ldVxMem x

theorem exists_row_of_decode {w : Word} {i : Instr} (h : decode w = some i) :
    ∃ r ∈ opcodeTable, r.matchesWord w = true ∧ i = r.instr w := by
  obtain ⟨-, r, hr, hm⟩ := encodingMatchesRow i
  rw [encode_of_decode h] at hm
  exact ⟨r, hr, hm, Option.some_inj.1 (h.symm.trans (decode_of_matchesWord hr hm))⟩

/-- Two rows that both ask for some bit and ask for it differently have no word in common. -/
theorem not_matchesWord_both {r q : OpRow} (h : r.bits &&& q.mask ≠ q.bits &&& r.mask) (w : Word) :
    ¬(r.matchesWord w = true ∧ q.matchesWord w = true) := by
  rintro ⟨hr, hq⟩
  rw [OpRow.matchesWord, beq_iff_eq] at hr hq
  rw [← hr, ← hq, BitVec.and_assoc, BitVec.and_assoc, BitVec.and_comm q.mask] at h
  exact h rfl

theorem opcodeTable_bits_differ :
    opcodeTable.Pairwise fun r q => r.bits &&& q.mask ≠ q.bits &&& r.mask := by decide

end Sys2Proof

/-! SUPPORT. A Cycle that fetches, and the end of one that fetched no instruction (spec/40_execution_cycle.md
R126). -/

namespace Sys2Proof.Machine

theorem cycle_of_fetch {s : State} (k : Word) (d : Byte) (hr : s.runState = .running)
    (hk : s.kwState = .idle) (hp : s.pc.toNat ≤ 0xFFE) :
    cycle k d s = decodeAndExecute (fetch (sampleInputs k d s)) := by
  rw [cycle, if_pos hr, hk]
  exact if_pos ((fetchOk_eq_true_iff s).2 hp)

theorem decodeAndExecute_of_illegal {s : State} (h : decode s.ir = none) :
    decodeAndExecute s = .next (raise .illegalInstruction s) := by
  rw [decodeAndExecute, h]

/-- A fault right after the fetch names the address of the fetch (spec/60_exceptions.md R266). -/
theorem raise_fetch (kind : ErrKind) (s : State) :
    raise kind (fetch s) = faultEntry kind s.pc (fetch s) := by
  rw [raise, fetch_pc, BitVec.add_sub_cancel]

theorem cycle_of_illegal_fetch {s : State} (k : Word) (d : Byte) (hr : s.runState = .running)
    (hk : s.kwState = .idle) (hp : s.pc.toNat ≤ 0xFFE) (hd : decode (fetchWord s) = none) :
    cycle k d s = .next (faultEntry .illegalInstruction s.pc (fetch (sampleInputs k d s))) := by
  have hill : decode (fetch (sampleInputs k d s)).ir = none := hd
  rw [cycle_of_fetch k d hr hk hp, decodeAndExecute_of_illegal hill, raise_fetch, sampleInputs_pc]

end Sys2Proof.Machine

/-! The statements about the encoding (spec/30_encoding.md), each from the lemmas above. -/

namespace Sys2Proof.Proofs

open Sys2Proof.Machine

/-- Settles O1: the word's two bytes give the word back, and the word decodes to its instruction. -/
theorem decodingAnEncodedInstructionGivesItBack : Obligations.DecodingAnEncodedInstructionGivesItBack :=
  fun i rest => decodeBytes_of_decode (decode_encode i) rest

/-- Settles O2. -/
theorem encodingADecodedWordGivesItBack : Obligations.EncodingADecodedWordGivesItBack :=
  fun _ _ h => encode_of_decode h

/-- Settles O3: from tree to table, the instruction's own row matches its word; from table to tree, the row's word is
the encoding of the row's instruction. -/
theorem decoderAgreesWithTheOpcodeTable : Obligations.DecoderAgreesWithTheOpcodeTable := by
  refine ⟨rfl, opcodeTable_bits_differ.imp not_matchesWord_both, fun w i => ⟨exists_row_of_decode, ?_⟩⟩
  rintro ⟨r, hr, hm, rfl⟩
  exact decode_of_matchesWord hr hm

/-- Settles O4. -/
theorem familyZeroIsSelectedByTheWholeWord : Obligations.FamilyZeroIsSelectedByTheWholeWord :=
  decode_wordNNN_0

/-- Settles O5: the nine legal words are encodings. -/
theorem familyEightIsSelectedByTheLowNibble : Obligations.FamilyEightIsSelectedByTheLowNibble := by
  intro x y
  refine ⟨decode_encode (.ldReg x y), decode_encode (.orReg x y), decode_encode (.andReg x y),
    decode_encode (.xorReg x y), decode_encode (.addReg x y), decode_encode (.subReg x y),
    decode_encode (.shr x y), decode_encode (.subnReg x y), decode_encode (.shl x y), fun n hn => ?_⟩
  rw [decode_wordXYN_8, decodeFamily8_of_unlisted x y n hn]

/-- Settles O6. -/
theorem familiesEAndFAreSelectedByTheLowByte : Obligations.FamiliesEAndFAreSelectedByTheLowByte :=
  fun x kk => ⟨(decode_wordXKK_E x kk).trans (decodeFamilyE_eq x kk),
    (decode_wordXKK_F x kk).trans (decodeFamilyF_eq x kk)⟩

/-- Settles O7: the words that decode are encodings, the others are read off the tree. -/
theorem wordsOfTheTableDecodeAsWrittenOut : Obligations.WordsOfTheTableDecodeAsWrittenOut :=
  ⟨decode_encode .cls, decode_encode (.jp 0xABC), decode_encode (.addImm 2 0x1E),
    decode_encode (.addReg 0xA 0xB), decode_encode (.ldI 0x123), decode_encode (.drw 1 2 5),
    decode_encode (.skp 1), decode_encode (.ldVxK 2), rfl, rfl, rfl⟩

/-- Settles O15: the event served is a Cycle that fetches an illegal word. -/
theorem illegalWordRaisesIllegalInstruction : Obligations.IllegalWordRaisesIllegalInstruction := by
  rintro s k d es w he hr hk hp rfl hd
  rw [step_of_events he]
  exact cycle_of_illegal_fetch k d hr hk hp hd

end Sys2Proof.Proofs

/-! SUPPORT. What a RESET, a RUN, a Cycle and a Tick do in each of their cases (spec/40_execution_cycle.md R122 to
R133). -/

namespace Sys2Proof.Machine

/-! ### Events the run state does not accept (R122) -/

theorem cycle_of_not_running {s : State} (k : Word) (d : Byte) (hr : s.runState ≠ .running) :
    cycle k d s = .next s :=
  if_neg hr

theorem tick_of_not_running {s : State} (b : Bool) (hr : s.runState ≠ .running) : tick b s = s :=
  if_neg hr

theorem startRun_of_not_idle {s : State} (hr : s.runState ≠ .idle) : startRun s = s :=
  if_neg hr

theorem startRun_eq (s : State) :
    startRun s = { s with runState := if s.runState = .idle then .running else s.runState } := by
  unfold startRun
  split <;> rfl

/-- In `Stopped` and in `Halted` no event but RESET does anything. -/
theorem serve_of_not_idle_of_not_running {s : State} {e : Event} (hi : s.runState ≠ .idle)
    (hr : s.runState ≠ .running) (he : e ≠ .reset) : serve e s = .next s := by
  cases e with
  | reset => contradiction
  | load bytes => exact congrArg _ (loadProgram_of_not_idle hi)
  | run => exact congrArg _ (startRun_of_not_idle hi)
  | cycle k d => exact cycle_of_not_running k d hr
  | tick b => exact congrArg _ (tick_of_not_running b hr)

/-! ### The Cycle that polls a key wait, and the one that cannot fetch (R125, R128) -/

theorem cycle_of_armed {s : State} (k : Word) (d : Byte) (hr : s.runState = .running) (hk : s.kwState = .armed) :
    cycle k d s = decodeAndExecute (sampleInputs k d s) := by
  rw [cycle, if_pos hr, hk]

theorem cycle_of_fetch_fault {s : State} (k : Word) (d : Byte) (hr : s.runState = .running)
    (hk : s.kwState = .idle) (hp : 0xFFE < s.pc.toNat) :
    cycle k d s = .next (raiseAtFetch (sampleInputs k d s)) := by
  have hbad : ¬ fetchOk s = true := by rw [fetchOk_eq_true_iff]; omega
  rw [cycle, if_pos hr, hk]
  exact if_neg hbad

theorem decodeAndExecute_of_decode {s : State} {i : Instr} (h : decode s.ir = some i) :
    decodeAndExecute s = exec i s := by
  rw [decodeAndExecute, h]

theorem decode_of_decodeBytes {hi lo : Byte} {bs rest : List Byte} {i : Instr}
    (h : decodeBytes (hi :: lo :: bs) = .ok (i, rest)) : decode (wordOfBytes hi lo) = some i := by
  rw [decodeBytes] at h
  split at h
  · next hd => cases h; exact hd
  · contradiction

/-- With nothing listed in memory its first 80 bytes read as the font (spec/20_memory.md R68). -/
theorem readByte_of_mem_nil {s : State} (hm : s.mem = []) {a : Nat} (h : a < 80) :
    readByte s a = s.params.font[a] := by
  have hfont : unlisted s.params.font a = some s.params.font[a] := by simp [unlisted, h]
  simp [readByte_eq_known, known, lookup, hfont, hm]

end Sys2Proof.Machine

/-! SUPPORT. `KEYS`, `RUNSTATE` and the error registers along every event (spec/40_execution_cycle.md R122, R124,
R136). -/

namespace Sys2Proof.Machine

/-! ### `KEYS` -/

theorem decodeAndExecute_keys {s t : State} (h : decodeAndExecute s = .next t) : t.keys = s.keys := by
  obtain ⟨-, he⟩ | ⟨i, -, he⟩ := decodeAndExecute_cases s <;> rw [he] at h
  · cases h
    rfl
  · exact (effect_of_exec h).keys_snap_eq.1

theorem cycle_keys {k : Word} {d : Byte} {s t : State} (h : cycle k d s = .next t) :
    t.keys = if s.runState = .running then k else s.keys := by
  obtain ⟨hr, hc⟩ | ⟨hr, -, hc⟩ | ⟨hr, -, -, hc⟩ | ⟨hr, -, -, hc⟩ := cycle_cases k d s <;> rw [hc] at h
  · cases h
    rw [if_neg hr]
  · rw [if_pos hr, decodeAndExecute_keys h, sampleInputs_keys]
  · rw [if_pos hr, decodeAndExecute_keys h, fetch_keys, sampleInputs_keys]
  · cases h
    exact (if_pos hr).symm

@[simp] theorem tick_keys (b : Bool) (s : State) : (tick b s).keys = s.keys := by
  by_cases hr : s.runState = .running
  · rw [tick_of_running b hr]
  · rw [tick_of_not_running b hr]

@[simp] theorem startRun_keys (s : State) : (startRun s).keys = s.keys := by
  rw [startRun_eq]

@[simp] theorem loadProgram_keys (bytes : List Byte) (s : State) : (loadProgram bytes s).keys = s.keys := by
  unfold loadProgram
  split
  · split <;> rfl
  · rfl

@[simp] theorem powerOn_keys (s : State) : (powerOn s).keys = 0 := rfl

@[simp] theorem takeEvent_keys (s : State) : (takeEvent s).2.keys = s.keys := by
  obtain ⟨es, n, h⟩ := takeEvent_state s
  rw [h]

/-! ### `RUNSTATE` and the error registers -/

/-- The status of the machine: `RUNSTATE` and the three error registers (spec/10_state.md R36, R37). -/
structure Status where
  runState : RunState
  errKind : ErrKind
  errWord : Word
  errPc : Word

/-- The status in a state. -/
def status (s : State) : Status :=
  { runState := s.runState, errKind := s.errKind, errWord := s.errWord, errPc := s.errPc }

@[simp] theorem status_sampleInputs (k : Word) (d : Byte) (s : State) :
    status (sampleInputs k d s) = status s := rfl

@[simp] theorem status_fetch (s : State) : status (fetch s) = status s := rfl

@[simp] theorem status_takeEvent (s : State) : status (takeEvent s).2 = status s := by
  obtain ⟨es, n, h⟩ := takeEvent_state s
  rw [h]
  rfl

@[simp] theorem takeEvent_runState (s : State) : (takeEvent s).2.runState = s.runState :=
  congrArg Status.runState (status_takeEvent s)

/-- What an event can do to the status: one constructor per way, with the run state it needs (R122, R136). -/
inductive StatusMove (p : Status) : Event → Status → Prop
  | stay {e : Event} {q : Status} (hq : q = p) : StatusMove p e q
  | reset {q : Status} (hq : q.runState = .idle) : StatusMove p .reset q
  | load (bytes : List Byte) (kind : ErrKind) (hp : p.runState = .idle) :
      StatusMove p (.load bytes) { p with errKind := kind }
  | run (hp : p.runState = .idle) : StatusMove p .run { p with runState := .running }
  | fault (k : Word) (d : Byte) {q : Status} (hp : p.runState = .running) (hq : q.runState = .halted)
      (hkind : isRunTimeFault q.errKind = true) : StatusMove p (.cycle k d) q
  | stop (hp : p.runState = .running) : StatusMove p (.tick true) { p with runState := .stopped }

/-- An executed instruction leaves the status, or enters its fault. -/
theorem Effect.status_cases {i : Instr} {s t : State} (h : Effect s i t) :
    status t = status s ∨ t.runState = .halted ∧ isRunTimeFault t.errKind = true := by
  cases h with
  | fault kind hkind => exact .inr ⟨rfl, isRunTimeFault_of_faultOf hkind⟩
  | _ => exact .inl rfl

theorem decodeAndExecute_status {s t : State} (h : decodeAndExecute s = .next t) :
    status t = status s ∨ t.runState = .halted ∧ isRunTimeFault t.errKind = true := by
  obtain ⟨-, he⟩ | ⟨i, -, he⟩ := decodeAndExecute_cases s <;> rw [he] at h
  · cases h
    exact .inr ⟨rfl, rfl⟩
  · exact (effect_of_exec h).status_cases

/-- A Cycle leaves the status, or enters a fault: the samples and the fetch do not touch it. -/
theorem cycle_status {k : Word} {d : Byte} {s t : State} (h : cycle k d s = .next t) :
    status t = status s ∨ s.runState = .running ∧ t.runState = .halted ∧ isRunTimeFault t.errKind = true := by
  obtain ⟨-, hc⟩ | ⟨hr, -, hc⟩ | ⟨hr, -, -, hc⟩ | ⟨hr, -, -, hc⟩ := cycle_cases k d s <;> rw [hc] at h
  · cases h
    exact .inl rfl
  · simpa [hr] using decodeAndExecute_status h
  · simpa [hr] using decodeAndExecute_status h
  · cases h
    exact .inr ⟨hr, rfl, rfl⟩

theorem tick_statusMove (b : Bool) (s : State) : StatusMove (status s) (.tick b) (status (tick b s)) := by
  by_cases hr : s.runState = .running
  · rw [tick_of_running b hr]
    cases b with
    | true => exact .stop hr
    | false => exact .stay (by simp [status, hr])
  · rw [tick_of_not_running b hr]
    exact .stay rfl

theorem startRun_statusMove (s : State) : StatusMove (status s) .run (status (startRun s)) := by
  unfold startRun
  split
  · next hr => exact .run hr
  · exact .stay rfl

theorem loadProgram_statusMove (bytes : List Byte) (s : State) :
    StatusMove (status s) (.load bytes) (status (loadProgram bytes s)) := by
  unfold loadProgram
  split
  · next hr => split <;> exact .load bytes _ hr
  · exact .stay rfl

theorem serve_statusMove {e : Event} {s t : State} (h : serve e s = .next t) :
    StatusMove (status s) e (status t) := by
  cases e with
  | cycle k d =>
    obtain hstay | ⟨hr, hhalt, hkind⟩ := cycle_status h
    · exact .stay hstay
    · exact .fault k d hr hhalt hkind
  | reset => cases h; exact .reset rfl
  | load bytes => cases h; exact loadProgram_statusMove bytes s
  | run => cases h; exact startRun_statusMove s
  | tick b => cases h; exact tick_statusMove b s

theorem step_statusMove {s t : State} (h : step s = .next t) :
    StatusMove (status s) (takeEvent s).1 (status t) := by
  rw [step_eq_serve] at h
  rw [← status_takeEvent s]
  exact serve_statusMove h

namespace StatusMove
variable {p q : Status} {e : Event}

theorem runState_cases (h : StatusMove p e q) :
    q.runState = p.runState ∨
    (e = .reset ∧ q.runState = .idle) ∨
    (e = .run ∧ p.runState = .idle ∧ q.runState = .running) ∨
    ((∃ k d, e = .cycle k d) ∧ p.runState = .running ∧ q.runState = .halted ∧ isRunTimeFault q.errKind = true) ∨
    (e = .tick true ∧ p.runState = .running ∧ q.runState = .stopped) := by
  cases h with
  | stay hq => exact .inl (congrArg _ hq)
  | reset hq => exact .inr (.inl ⟨rfl, hq⟩)
  | load => exact .inl rfl
  | run hp => exact .inr (.inr (.inl ⟨rfl, hp, rfl⟩))
  | fault k d hp hq hkind => exact .inr (.inr (.inr (.inl ⟨⟨k, d, rfl⟩, hp, hq, hkind⟩)))
  | stop hp => exact .inr (.inr (.inr (.inr ⟨rfl, hp, rfl⟩)))

theorem errors_cases (h : StatusMove p e q) :
    (q.errKind = p.errKind ∧ q.errWord = p.errWord ∧ q.errPc = p.errPc) ∨
    e = .reset ∨
    ((∃ bytes, e = .load bytes) ∧ p.runState = .idle ∧ q.errWord = p.errWord ∧ q.errPc = p.errPc) ∨
    (p.runState = .running ∧ q.runState = .halted) := by
  cases h with
  | stay hq => subst hq; exact .inl ⟨rfl, rfl, rfl⟩
  | reset => exact .inr (.inl rfl)
  | load bytes _ hp => exact .inr (.inr (.inl ⟨⟨bytes, rfl⟩, hp, rfl, rfl⟩))
  | run | stop => exact .inl ⟨rfl, rfl, rfl⟩
  | fault _ _ hp hq => exact .inr (.inr (.inr ⟨hp, hq⟩))

end StatusMove

end Sys2Proof.Machine

/-! SUPPORT. The renderer's grid as one row-major list (spec/40_execution_cycle.md R135). -/

namespace Sys2Proof.Machine

/-- The pixel at place k of the grid: row k / 64, column k % 64. -/
def gridPixel (f : FrameBuf) (k : Fin (32 * 64)) : Bool := pixel f k.divNat k.modNat

theorem gridPixel_row_col (f : FrameBuf) (r : Fin 32) (c : Fin 64) (h : r.val * 64 + c.val < 32 * 64) :
    gridPixel f ⟨r.val * 64 + c.val, h⟩ = pixel f r c := by
  have hrow : Fin.divNat ⟨r.val * 64 + c.val, h⟩ = r := Fin.ext (by simp; omega)
  have hcol : Fin.modNat ⟨r.val * 64 + c.val, h⟩ = c := Fin.ext (by simp)
  rw [gridPixel, hrow, hcol]

theorem snapshotGrid_eq_ofFn (f : FrameBuf) : snapshotGrid f = List.ofFn (gridPixel f) := by
  simp only [List.ofFn_mul, gridPixel_row_col, List.ofFn_eq_map, snapshotGrid, List.flatMap_def]

end Sys2Proof.Machine

/-! The statements about the execution cycle (spec/40_execution_cycle.md), each from the lemmas above. -/

namespace Sys2Proof.Proofs

open Sys2Proof.Machine

/-- Settles O21: each way an event moves the status is one of the listed transitions, or none. -/
theorem runStateChangesOnlyAsListed : Obligations.RunStateChangesOnlyAsListed :=
  fun _ _ h => (step_statusMove h).runState_cases

/-- Settles O22: of the ways an event moves the status, RUN and a stopping Tick leave the error registers. -/
theorem errorRegistersChangeOnlyAtFaultLoadOrReset : Obligations.ErrorRegistersChangeOnlyAtFaultLoadOrReset :=
  fun _ _ h => (step_statusMove h).errors_cases

/-- Settles O23: the event is taken, which leaves `KEYS` and `RUNSTATE`, then served. -/
theorem keysAreWrittenOnlyBySampling : Obligations.KeysAreWrittenOnlyBySampling := by
  intro s t h
  rw [step_eq_serve] at h
  generalize (takeEvent s).1 = e at h ⊢
  cases e with
  | cycle k d => simpa using cycle_keys h
  | reset => cases h; exact powerOn_keys _
  | load bytes => cases h; simp
  | run => cases h; simp
  | tick b => cases h; simp

/-- Settles O55: place r * 64 + c of the row-major list is row r, column c. -/
theorem snapshotGridIsRowMajor : Obligations.SnapshotGridIsRowMajor := by
  intro f
  rw [snapshotGrid_eq_ofFn]
  refine ⟨List.length_ofFn, fun r c => ?_⟩
  have hk : r.val * 64 + c.val < 32 * 64 := by omega
  rw [List.getElem?_ofFn, dif_pos hk, gridPixel_row_col]

/-- Settles O9: RESET leaves nothing listed in memory, so the font reads back. -/
theorem resetEventRestoresTheResetState : Obligations.ResetEventRestoresTheResetState :=
  fun _ _ he => ⟨_, step_of_events he, rfl, fun _ h => readByte_of_mem_nil rfl h⟩

/-- Settles O10. -/
theorem runStartsTheRunLoopFromIdle : Obligations.RunStartsTheRunLoopFromIdle := by
  intro s es he
  rw [step_of_events he]
  exact congrArg _ (startRun_eq _)

/-- Settles O13: the Cycle fetches, and the word it fetches decodes. -/
theorem cycleExecutesTheInstructionAtPc : Obligations.CycleExecutesTheInstructionAtPc := by
  intro s k d es i rest he hr hk hp hd
  calc
    step s = cycle k d { s with events := es } := step_of_events he
    _ = decodeAndExecute (fetch (sampleInputs k d { s with events := es })) := cycle_of_fetch k d hr hk hp
    _ = _ := decodeAndExecute_of_decode (decode_of_decodeBytes hd)

/-- Settles O14: the Cycle polls, and the word in `IR` is that of the wait. -/
theorem blockedCycleExecutesIrWithoutFetching : Obligations.BlockedCycleExecutesIrWithoutFetching := by
  intro s k d es i he hr hk hd
  calc
    step s = cycle k d { s with events := es } := step_of_events he
    _ = decodeAndExecute (sampleInputs k d { s with events := es }) := cycle_of_armed k d hr hk
    _ = _ := decodeAndExecute_of_decode hd

/-- Settles O16. -/
theorem fetchBeyondMemoryRaisesMemoryFault : Obligations.FetchBeyondMemoryRaisesMemoryFault := by
  intro s k d es he hr hk hp
  rw [step_of_events he]
  exact cycle_of_fetch_fault k d hr hk hp

/-- Settles O18: in `Idle` a Cycle and a Tick are ignored, in `Stopped` every event but RESET is. -/
theorem idleAndStoppedMachinesDoNotRun : Obligations.IdleAndStoppedMachinesDoNotRun := by
  intro s e es he
  rw [step_of_events he]
  refine ⟨fun hr hev => ?_, fun hr hne => ?_⟩
  · have hnot : s.runState ≠ .running := by simp [hr]
    obtain ⟨k, d, rfl⟩ | ⟨b, rfl⟩ := hev
    · exact cycle_of_not_running k d hnot
    · exact congrArg Host.Outcome.next (tick_of_not_running b hnot)
  · exact serve_of_not_idle_of_not_running (by simp [hr]) (by simp [hr]) hne

/-- Settles O19: `tick_of_running` gives the whole state after the Tick, with no register and no byte of memory in
it. -/
theorem tickDecrementsPublishesAndSamplesStop : Obligations.TickDecrementsPublishesAndSamplesStop := by
  intro s b es he hr
  have hrun : ({ s with events := es } : State).runState = .running := hr
  have hstep : step s = .next (tick b { s with events := es }) := step_of_events he
  rw [tick_of_running b hrun] at hstep
  exact ⟨_, hstep, toNat_countDown s.dt, toNat_countDown s.st, rfl, rfl, rfl, rfl, fun _ _ => getV_congr rfl _,
    readByte_congr rfl rfl rfl, rfl⟩

end Sys2Proof.Proofs

/-! SUPPORT. What the control-transfer instructions do in each of their cases (spec/41_control_flow.md), and the
families their skips decode from. -/

namespace Sys2Proof

theorem decode_wordXYN_5 (x y : Reg) (n : Nibble) :
    decode (wordXYN 0x5 x y n) = if n = 0 then some (.seReg x y) else none := by
  simp [decode]

theorem decode_wordXYN_9 (x y : Reg) (n : Nibble) :
    decode (wordXYN 0x9 x y n) = if n = 0 then some (.sneReg x y) else none := by
  simp [decode]

end Sys2Proof

namespace Sys2Proof.Machine

/-! ### Jumps and skips (R150, R158) -/

theorem setPc_changesOnlyPc (s : State) (w : Word) : ChangesOnlyPc s (setPc s w) :=
  ⟨fun _ _ => getV_congr rfl _, readByte_congr rfl rfl rfl, rfl⟩

/-- The 16-bit sum of `nnn` and a register is the sum itself: it is at most 0x10FE. -/
theorem toNat_ofNat_addr_add_byte (nnn : Addr) (b : Byte) :
    (BitVec.ofNat 16 (nnn.toNat + b.toNat)).toNat = nnn.toNat + b.toNat := by
  have := nnn.isLt
  have := b.isLt
  rw [BitVec.toNat_ofNat]; omega

/-- An instruction that is a skip adds 2 to `PC` exactly when the condition its test decides holds. -/
theorem exec_of_skipIf {i : Instr} {s : State} {p : Bool} {c : Prop} [Decidable c]
    (hx : exec i s = .next (skipIf p s)) (hc : p = true ↔ c) :
    ∃ t, exec i s = .next t ∧ t.pc = (if c then s.pc + 2 else s.pc) ∧ ChangesOnlyPc s t := by
  rw [skipIf_eq] at hx
  exact ⟨_, hx, if_congr hc rfl rfl, setPc_changesOnlyPc s _⟩

/-! ### CALL and RET (R151, R153) -/

section stack
variable {s : State}

theorem exec_call_of_lt (nnn : Addr) (h : s.sp.val < 16) :
    exec (.call nnn) s = .next { s with
      pc := zextAddr nnn, stack := s.stack.set s.sp.val s.pc, sp := ⟨s.sp.val + 1, by omega⟩ } := by
  obtain ⟨hfull, -⟩ | ⟨_, hp⟩ := push_cases s.pc s
  · omega
  · rw [exec, execCall, hp]
    rfl

theorem exec_call_of_full (nnn : Addr) (h : s.sp.val = 16) :
    exec (.call nnn) s = .next (raise .stackOverflow s) := by
  obtain ⟨-, hp⟩ | ⟨hlt, -⟩ := push_cases s.pc s
  · rw [exec, execCall, hp]
  · omega

/-- The top entry of a stack that is not empty is entry `SP` - 1, here `k`. -/
theorem exec_ret_of_sp_eq_succ (k : Fin 16) (h : s.sp.val = k.val + 1) :
    exec .ret s = .next { s with pc := s.stack[k], sp := k.castSucc } := by
  obtain ⟨hempty, -⟩ | ⟨_, hp⟩ := pop_cases s
  · omega
  · have hk : s.sp.val - 1 = k.val := by omega
    rw [exec, execRet, hp]
    simp only [hk]
    rfl

theorem exec_ret_of_empty (h : s.sp.val = 0) : exec .ret s = .next (raise .stackUnderflow s) := by
  obtain ⟨-, hp⟩ | ⟨hpos, -⟩ := pop_cases s
  · rw [exec, execRet, hp]
  · omega

/-- The RET finds the pushed `PC` on top, so `PC` and `SP` are back and only the pushed entry differs. -/
theorem exec_ret_after_call (nnn : Addr) (h : s.sp.val < 16) :
    ∃ t, exec (.call nnn) s = .next t ∧
      exec .ret t = .next { s with stack := s.stack.set s.sp.val s.pc } := by
  refine ⟨_, exec_call_of_lt nnn h, ?_⟩
  rw [exec_ret_of_sp_eq_succ ⟨s.sp.val, h⟩ rfl]
  simp only [Fin.getElem_fin, Vector.getElem_set_self]
  rfl

end stack

end Sys2Proof.Machine

/-! The statements about control transfer (spec/41_control_flow.md), each from the lemmas above. -/

namespace Sys2Proof.Proofs

open Sys2Proof.Machine

/-- Settles O33. -/
theorem jumpSetsPcToTheAddress : Obligations.JumpSetsPcToTheAddress :=
  fun nnn s => ⟨decode_encode (.jp nnn), _, rfl, toNat_zextAddr nnn, setPc_changesOnlyPc s _⟩

/-- Settles O34: a push with room writes the entry at `SP` alone. -/
theorem callPushesTheReturnAddressAndJumps : Obligations.CallPushesTheReturnAddressAndJumps := by
  intro nnn s
  refine ⟨decode_encode (.call nnn), fun hsp => ?_, exec_call_of_full nnn⟩
  refine ⟨_, exec_call_of_lt nnn hsp, toNat_zextAddr nnn, rfl, fun k => ?_, fun _ _ => getV_congr rfl _,
    readByte_congr rfl rfl rfl, rfl⟩
  simp only [Fin.getElem_fin, Vector.getElem_set, eq_comm]

/-- Settles O35. -/
theorem returnPopsPc : Obligations.ReturnPopsPc :=
  fun _ => ⟨decode_encode .ret, fun k hk => ⟨_, exec_ret_of_sp_eq_succ k hk, rfl, rfl,
    fun _ _ => getV_congr rfl _, readByte_congr rfl rfl rfl, rfl⟩, exec_ret_of_empty⟩

/-- Settles O36: the pushed entry is at `SP`, above every entry in use. -/
theorem returnAfterCallRestoresPc : Obligations.ReturnAfterCallRestoresPc := by
  intro nnn s hsp
  obtain ⟨t, hcall, hret⟩ := exec_ret_after_call nnn hsp
  refine ⟨t, _, hcall, hret, rfl, rfl, fun k hk => ?_, fun _ _ => getV_congr rfl _, readByte_congr rfl rfl rfl⟩
  exact Vector.getElem_set_ne hsp k.isLt hk.ne'

/-- Settles O37. -/
theorem skipsOnAnImmediateCompareForEquality : Obligations.SkipsOnAnImmediateCompareForEquality :=
  fun x kk _ => ⟨decode_encode (.seImm x kk), decode_encode (.sneImm x kk),
    exec_of_skipIf rfl beq_iff_eq, exec_of_skipIf rfl bne_iff_ne⟩

/-- Settles O38: n is 0 in the word of either skip, and any other n leaves no row. -/
theorem skipsOnRegistersCompareForEquality : Obligations.SkipsOnRegistersCompareForEquality :=
  fun x y _ => ⟨fun n => ⟨decode_wordXYN_5 x y n, decode_wordXYN_9 x y n⟩,
    exec_of_skipIf rfl beq_iff_eq, exec_of_skipIf rfl bne_iff_ne⟩

/-- Settles O39. -/
theorem jumpWithOffsetAddsRegisterZero : Obligations.JumpWithOffsetAddsRegisterZero :=
  fun nnn s => ⟨decode_encode (.jpV0 nnn), _, rfl, toNat_ofNat_addr_add_byte nnn _,
    toNat_ofNat_addr_add_byte_le nnn _, setPc_changesOnlyPc s _⟩

end Sys2Proof.Proofs

/-! SUPPORT. What the writes of a register leave (spec/10_state.md R23), and what the results and the flags of the
arithmetic are as numbers (spec/42_alu.md R170 to R184). -/

namespace Sys2Proof.Machine

/-! ### A register written, with and without a flag (R170) -/

section write
variable {s : State} {x : Reg} {b f : Byte}

theorem getV_setV_self : getV (setV s x b) x = b := by
  rw [getV_setV, if_pos rfl]

theorem setV_changesOnlyRegs : ChangesOnlyRegs [x] s (setV s x b) :=
  ⟨fun _ hr => getV_setV_of_ne s (List.ne_of_not_mem_cons hr).symm b, readByte_congr rfl rfl rfl, rfl⟩

/-- An instruction whose whole meaning is one register write. -/
theorem exec_of_setV {i : Instr} (hx : exec i s = .next (setV s x b)) :
    ∃ t, exec i s = .next t ∧ getV t x = b ∧ ChangesOnlyRegs [x] s t :=
  ⟨_, hx, getV_setV_self, setV_changesOnlyRegs⟩

/-- The result stays where the flag does not replace it. -/
theorem getV_setResultAndFlag_self (h : x ≠ VF) : getV (setResultAndFlag s x b f) x = b := by
  rw [getV_setResultAndFlag, if_neg h, if_pos rfl]

/-- The flag is written last, so it is there for every x. -/
theorem getV_setResultAndFlag_VF : getV (setResultAndFlag s x b f) VF = f :=
  getV_setV_self

theorem setResultAndFlag_changesOnlyRegs : ChangesOnlyRegs [x, VF] s (setResultAndFlag s x b f) := by
  refine ⟨fun r hr => ?_, readByte_congr rfl rfl rfl, rfl⟩
  obtain ⟨hx, hf⟩ : r ≠ x ∧ r ≠ VF := by simpa using hr
  rw [getV_setResultAndFlag, if_neg hf, if_neg hx]

end write

/-! ### Results modulo 256 (spec/00_scope.md R7) -/

theorem toNat_subBytes (a b : Byte) : ((subBytes a b).toNat : Int) = (a.toNat - b.toNat : Int) % 256 := by
  rw [subBytes, BitVec.toNat_ofInt]
  exact Int.toNat_of_nonneg (Int.emod_nonneg _ (by decide))

/-- Half of a byte is a byte, so the narrowing loses nothing (R179). -/
theorem toNat_ofNat_half (a : Byte) : (BitVec.ofNat 8 (a.toNat / 2)).toNat = a.toNat / 2 := by
  have := a.isLt
  rw [BitVec.toNat_ofNat]; omega

/-! ### Flags as numbers (R177 to R181) -/

theorem toNat_flagByte (p : Bool) : (flagByte p).toNat = p.toNat := by
  cases p <;> rfl

theorem toNat_flagByte_decide (c : Prop) [Decidable c] : (flagByte (decide c)).toNat = if c then 1 else 0 := by
  rw [toNat_flagByte, Bool.toNat, Bool.cond_decide]

theorem toNat_lowBitFlag (a : Byte) : (lowBitFlag a).toNat = a.toNat % 2 := by
  rw [lowBitFlag, toNat_flagByte, BitVec.getLsbD, Nat.toNat_testBit, Nat.pow_zero, Nat.div_one]

/-- Above bit 7 a byte has no bit. -/
theorem toNat_highBitFlag (a : Byte) : (highBitFlag a).toNat = a.toNat / 128 := by
  have := a.isLt
  rw [highBitFlag, toNat_flagByte, BitVec.getLsbD, Nat.toNat_testBit]; omega

/-! ### Subtractions (R178, R180) -/

/-- An instruction that is a subtraction `a` - `b`: SUB and SUBN differ in the order of the operands alone. -/
theorem exec_of_subtraction {i : Instr} {s : State} {x : Reg} {a b : Byte}
    (hx : exec i s = .next (setResultAndFlag s x (subBytes a b) (notBorrowFlag a b))) :
    ∃ t, exec i s = .next t ∧ (x ≠ VF → ((getV t x).toNat : Int) = (a.toNat - b.toNat : Int) % 256) ∧
      (getV t VF).toNat = (if a.toNat ≥ b.toNat then 1 else 0) ∧ ChangesOnlyRegs [x, VF] s t := by
  refine ⟨_, hx, fun hne => ?_, ?_, setResultAndFlag_changesOnlyRegs⟩
  · rw [getV_setResultAndFlag_self hne, toNat_subBytes]
  · rw [getV_setResultAndFlag_VF, notBorrowFlag, toNat_flagByte_decide]

end Sys2Proof.Machine

/-! The statements about the ALU (spec/42_alu.md), each from the lemmas above. -/

namespace Sys2Proof.Proofs

open Sys2Proof.Machine

/-- Settles O40. -/
theorem immediateLoadAndAddWriteNoFlag : Obligations.ImmediateLoadAndAddWriteNoFlag :=
  fun x kk _ => ⟨decode_encode (.ldImm x kk), decode_encode (.addImm x kk), exec_of_setV rfl,
    _, rfl, by rw [getV_setV_self, BitVec.toNat_ofNat], setV_changesOnlyRegs⟩

/-- Settles O41. -/
theorem copyAndLogicWriteOnlyTheDestination : Obligations.CopyAndLogicWriteOnlyTheDestination :=
  fun _ _ _ => ⟨exec_of_setV rfl, exec_of_setV rfl, exec_of_setV rfl, exec_of_setV rfl⟩

/-- Settles O42. -/
theorem addSetsTheCarryFlag : Obligations.AddSetsTheCarryFlag := by
  refine fun x y s => ⟨decode_encode (.addReg x y), _, rfl, fun hx => ?_, ?_, setResultAndFlag_changesOnlyRegs⟩
  · rw [getV_setResultAndFlag_self hx, BitVec.toNat_ofNat]
  · rw [getV_setResultAndFlag_VF, carryFlag, toNat_flagByte_decide]

/-- Settles O43. -/
theorem subtractionsSetTheNotBorrowFlag : Obligations.SubtractionsSetTheNotBorrowFlag :=
  fun x y _ => ⟨decode_encode (.subReg x y), decode_encode (.subnReg x y),
    exec_of_subtraction rfl, exec_of_subtraction rfl⟩

/-- Settles O44: for either value of `SHIFT_SRC` the byte is the shift operand. -/
theorem shiftsSetTheShiftedOutBit : Obligations.ShiftsSetTheShiftedOutBit := by
  intro x y s a ha
  obtain rfl : a = shiftOperand s x y := ha
  refine ⟨⟨_, rfl, fun hx => ?_, ?_, setResultAndFlag_changesOnlyRegs⟩,
    _, rfl, fun hx => ?_, ?_, setResultAndFlag_changesOnlyRegs⟩
  · rw [getV_setResultAndFlag_self hx, toNat_ofNat_half]
  · rw [getV_setResultAndFlag_VF, toNat_lowBitFlag]
  · rw [getV_setResultAndFlag_self hx, BitVec.toNat_ofNat]
  · rw [getV_setResultAndFlag_VF, toNat_highBitFlag]

/-- Settles O45: the draw is `rnd_in`, which the start of the Cycle presents. -/
theorem randomMasksTheDrawnByte : Obligations.RandomMasksTheDrawnByte :=
  fun x kk _ => ⟨decode_encode (.rnd x kk), exec_of_setV rfl, fun _ _ => ⟨_, rfl, getV_setV_self⟩⟩

end Sys2Proof.Proofs

/-! SUPPORT. What the address-register and memory-transfer instructions do in each of their cases
(spec/43_index_memory.md), from what a checked access does on either side of its check. -/

namespace Sys2Proof.Machine

/-! ### The address register (R201 to R203) -/

theorem setI_changesOnlyI (s : State) (w : Word) : ChangesOnlyI s (setI s w) :=
  ⟨fun _ _ => getV_congr rfl _, readByte_congr rfl rfl rfl, rfl⟩

/-- Five times a byte is below 65536, so the digit address is not reduced (R203). -/
theorem toNat_glyphAddr (v : Byte) : (glyphAddr v).toNat = 5 * v.toNat := by
  have := v.isLt
  rw [glyphAddr, BitVec.toNat_ofNat]; omega

/-! ### Checked accesses on either side of the check (spec/20_memory.md R66) -/

section check
variable {s : State} {addr n : Nat} {bs : List Byte}

theorem memCheck_of_fits (h : addr + n ≤ 0x1000) : memCheck addr n = true :=
  (memCheck_eq_true_iff _ _).2 (.inr h)

theorem not_memCheck_of_beyond (hpos : 0 < n) (h : 0x1000 < addr + n) : ¬ memCheck addr n = true := by
  rw [memCheck_eq_true_iff]
  omega

theorem memWrite_of_fits (h : addr + bs.length ≤ 0x1000) :
    memWrite s addr bs = some (writeBytes s addr bs) :=
  if_pos (memCheck_of_fits h)

theorem memWrite_of_beyond (hpos : 0 < bs.length) (h : 0x1000 < addr + bs.length) :
    memWrite s addr bs = none :=
  if_neg (not_memCheck_of_beyond hpos h)

theorem memRead_of_fits (h : addr + n ≤ 0x1000) : memRead s addr n = some (readBytes s addr n) :=
  if_pos (memCheck_of_fits h)

theorem memRead_of_beyond (hpos : 0 < n) (h : 0x1000 < addr + n) : memRead s addr n = none :=
  if_neg (not_memCheck_of_beyond hpos h)

theorem writeBytes_changesOnlyMemory (hn : bs.length = n) :
    ChangesOnlyMemory addr n s (writeBytes s addr bs) :=
  ⟨fun _ _ => getV_congr rfl _, fun a ha => readByte_writeBytes_outside s addr bs a (hn ▸ ha), rfl⟩

end check

section transfer
variable {s : State} {x : Reg}

/-! ### LD B (R204) -/

@[simp] theorem length_bcdBytes (v : Byte) : (bcdBytes v).length = 3 := rfl

theorem exec_ldB_of_fits (h : s.i.toNat ≤ 0xFFD) :
    exec (.ldB x) s = .next (writeBytes s (baseAddr s) (bcdBytes (getV s x))) := by
  have hfit : baseAddr s + (bcdBytes (getV s x)).length ≤ 0x1000 := by rw [length_bcdBytes, baseAddr]; omega
  rw [exec, execLdB, memWrite_of_fits hfit]

theorem exec_ldB_of_beyond (h : 0xFFD < s.i.toNat) : exec (.ldB x) s = .next (raise .memoryFault s) := by
  have hout : 0x1000 < baseAddr s + (bcdBytes (getV s x)).length := by rw [length_bcdBytes, baseAddr]; omega
  rw [exec, execLdB, memWrite_of_beyond (by simp) hout]

/-- Every digit is below 10, so each fits its byte. -/
theorem map_toNat_bcdBytes (v : Byte) :
    (bcdBytes v).map BitVec.toNat = [v.toNat / 100, v.toNat / 10 % 10, v.toNat % 10] := by
  have := v.isLt
  simp only [bcdBytes, List.map_cons, List.map_nil, BitVec.toNat_ofNat, List.cons.injEq, and_true]
  omega

/-- A byte of the number stored reads back as the digit at its offset. -/
theorem toNat_readByte_writeBytes_bcdBytes (a : Nat) (v : Byte) (k : Nat) (hk : k < 3) :
    (readByte (writeBytes s a (bcdBytes v)) (a + k)).toNat =
      [v.toNat / 100, v.toNat / 10 % 10, v.toNat % 10][k] := by
  have hlen : k < (bcdBytes v).length := by rwa [length_bcdBytes]
  rw [readByte_writeBytes_inside s a (bcdBytes v) k hlen]
  simp only [← map_toNat_bcdBytes, List.getElem_map]

/-! ### LD [I], Vx (R205) -/

theorem exec_ldMemVx_of_fits (h : s.i.toNat + x.toNat ≤ 0xFFF) :
    exec (.ldMemVx x) s = .next (writeBytes s (baseAddr s) (regBlock s x)) := by
  have hfit : baseAddr s + (regBlock s x).length ≤ 0x1000 := by rw [length_regBlock, baseAddr]; omega
  rw [exec, execLdMemVx, memWrite_of_fits hfit]

theorem exec_ldMemVx_of_beyond (h : 0xFFF < s.i.toNat + x.toNat) :
    exec (.ldMemVx x) s = .next (raise .memoryFault s) := by
  have hout : 0x1000 < baseAddr s + (regBlock s x).length := by rw [length_regBlock, baseAddr]; omega
  rw [exec, execLdMemVx, memWrite_of_beyond (by simp [length_regBlock]) hout]

theorem readByte_writeBytes_regBlock (a : Nat) {r : Reg} (hr : r.toNat ≤ x.toNat) :
    readByte (writeBytes s a (regBlock s x)) (a + r.toNat) = getV s r := by
  have hlen : r.toNat < (regBlock s x).length := by rw [length_regBlock]; omega
  rw [readByte_writeBytes_inside s a _ _ hlen, getElem_regBlock, getV]

/-! ### LD Vx, [I] (R206) -/

theorem exec_ldVxMem_of_fits (h : s.i.toNat + x.toNat ≤ 0xFFF) :
    exec (.ldVxMem x) s = .next { s with v := setRegs s.v 0 (readBytes s (baseAddr s) (x.toNat + 1)) } := by
  have hfit : baseAddr s + (x.toNat + 1) ≤ 0x1000 := Nat.succ_le_succ h
  rw [exec, execLdVxMem, memRead_of_fits hfit]

theorem exec_ldVxMem_of_beyond (h : 0xFFF < s.i.toNat + x.toNat) :
    exec (.ldVxMem x) s = .next (raise .memoryFault s) := by
  have hout : 0x1000 < baseAddr s + (x.toNat + 1) := Nat.succ_lt_succ h
  rw [exec, execLdVxMem, memRead_of_beyond x.toNat.succ_pos hout]

/-- The block starts at `V[0]`, so register `r` gets byte `r` of it, up to `V[x]`. -/
theorem getV_setRegs_readBytes (a : Nat) (r : Reg) :
    getV { s with v := setRegs s.v 0 (readBytes s a (x.toNat + 1)) } r =
      if r.toNat ≤ x.toNat then readByte s (a + r.toNat) else getV s r := by
  simp only [getV, getElem_setRegs, length_readBytes, getElem_readBytes, Nat.zero_le, true_and, Nat.zero_add,
    Nat.sub_zero, Nat.lt_succ_iff, dite_eq_ite]

end transfer

end Sys2Proof.Machine

/-! The statements about the address register and memory (spec/43_index_memory.md), each from the lemmas above. -/

namespace Sys2Proof.Proofs

open Sys2Proof.Machine

/-- Settles O46. -/
theorem loadAddressRegisterSetsI : Obligations.LoadAddressRegisterSetsI :=
  fun nnn s => ⟨decode_encode (.ldI nnn), _, rfl, toNat_zextAddr nnn, setI_changesOnlyI s _⟩

/-- Settles O47: the sum is reduced to 16 bits, the digit address is not. -/
theorem addToIAndDigitAddressSetI : Obligations.AddToIAndDigitAddressSetI :=
  fun _ s => ⟨⟨_, rfl, BitVec.toNat_ofNat .., setI_changesOnlyI s _⟩,
    _, rfl, toNat_glyphAddr _, setI_changesOnlyI s _⟩

/-- Settles O48: the digits are at offsets 0, 1 and 2. -/
theorem storeBcdWritesThreeDigits : Obligations.StoreBcdWritesThreeDigits := by
  refine fun x s => ⟨decode_encode (.ldB x), fun hi => ?_, exec_ldB_of_beyond⟩
  have hdigit := toNat_readByte_writeBytes_bcdBytes (s := s) s.i.toNat (getV s x)
  exact ⟨_, exec_ldB_of_fits hi, hdigit 0 (by decide), hdigit 1 (by decide), hdigit 2 (by decide),
    writeBytes_changesOnlyMemory (length_bcdBytes _)⟩

/-- Settles O49. -/
theorem blockStoreWritesTheRegisters : Obligations.BlockStoreWritesTheRegisters :=
  fun x s => ⟨decode_encode (.ldMemVx x), fun hi => ⟨_, exec_ldMemVx_of_fits hi,
    fun _ => readByte_writeBytes_regBlock _, writeBytes_changesOnlyMemory (length_regBlock s x)⟩,
    exec_ldMemVx_of_beyond⟩

/-- Settles O50. -/
theorem blockLoadReadsTheRegisters : Obligations.BlockLoadReadsTheRegisters :=
  fun x _ => ⟨decode_encode (.ldVxMem x), fun hi => ⟨_, exec_ldVxMem_of_fits hi,
    getV_setRegs_readBytes _, readByte_congr rfl rfl rfl, rfl⟩, exec_ldVxMem_of_beyond⟩

end Sys2Proof.Proofs

/-! SUPPORT. A draw as one pass over the list of the pixels its 1 bits address (spec/44_display.md R221, R222), and
the framebuffer read pixel by pixel and packed byte by packed byte (spec/10_state.md R31). -/

namespace Sys2Proof.Machine

/-! ### Pixels (spec/10_state.md R31) -/

/-- A display is its pixels. -/
theorem frameBuf_ext {f g : FrameBuf} (h : ∀ r c, pixel f r c = pixel g r c) : f = g := by
  refine Vector.ext fun r hr => BitVec.eq_of_getMsbD_eq fun c hc => ?_
  exact h ⟨r, hr⟩ ⟨c, hc⟩

/-- The display after CLS. -/
def blank : FrameBuf := Vector.replicate 32 0

theorem pixel_blank (r : Fin 32) (c : Fin 64) : pixel blank r c = false := by
  simp [pixel, blank]

theorem getMsbD_columnBit (c c' : Fin 64) : (columnBit c).getMsbD c' = decide (c' = c) := by
  have hlt := c.isLt
  have hlt' := c'.isLt
  have hcol : 63 - c.val = 64 - 1 - c'.val ↔ c' = c := by omega
  simp only [columnBit, BitVec.getMsbD_eq_getLsbD, BitVec.getLsbD_twoPow, decide_eq_true hlt',
    decide_eq_true (show 63 - c.val < 64 by omega), Bool.true_and, hcol]

theorem pixel_flipPixel (f : FrameBuf) (p : Fin 32 × Fin 64) (r : Fin 32) (c : Fin 64) :
    pixel (flipPixel f p.1 p.2) r c = (pixel f r c ^^ decide ((r, c) = p)) := by
  obtain ⟨r', c'⟩ := p
  simp only [pixel, flipPixel, Fin.getElem_fin, Vector.getElem_set, Fin.val_inj, Prod.mk.injEq]
  by_cases hr : r' = r
  · subst hr
    simp [BitVec.getMsbD_xor, getMsbD_columnBit]
  · simp [hr, Ne.symm hr]

/-! ### Bits drawn one after another (R222) -/

/-- The bits drawn at the listed pixels, in order. -/
def drawPixels (k : Canvas) (ps : List (Fin 32 × Fin 64)) : Canvas :=
  ps.foldl (fun k p => drawBit k p.1 p.2) k

theorem pixel_drawPixels {ps : List (Fin 32 × Fin 64)} (hps : ps.Nodup) (k : Canvas) (r : Fin 32) (c : Fin 64) :
    pixel (drawPixels k ps).fb r c = (pixel k.fb r c ^^ decide ((r, c) ∈ ps)) := by
  induction ps generalizing k with
  | nil => simp [drawPixels]
  | cons p ps ih =>
    obtain ⟨hp, hps⟩ := List.nodup_cons.1 hps
    have hrest := ih hps (drawBit k p.1 p.2)
    rw [drawBit, pixel_flipPixel] at hrest
    rw [drawPixels, List.foldl_cons, ← drawPixels, drawBit, hrest]
    by_cases h : (r, c) = p
    · simp [h, hp]
    · simp [h]

/-- No pixel is flipped before it is looked at, so the collision is with the display as it was (R223). -/
theorem drawPixels_hit {ps : List (Fin 32 × Fin 64)} (hps : ps.Nodup) (k : Canvas) :
    (drawPixels k ps).hit = true ↔ k.hit = true ∨ ∃ p ∈ ps, pixel k.fb p.1 p.2 = true := by
  induction ps generalizing k with
  | nil => simp [drawPixels]
  | cons p ps ih =>
    obtain ⟨hp, hps⟩ := List.nodup_cons.1 hps
    have hsame : ∀ q ∈ ps, pixel (flipPixel k.fb p.1 p.2) q.1 q.2 = pixel k.fb q.1 q.2 := by
      intro q hq
      have hne : q ≠ p := fun h => hp (h ▸ hq)
      simp [pixel_flipPixel, hne]
    have hrest := ih hps (drawBit k p.1 p.2)
    rw [drawPixels, List.foldl_cons, ← drawPixels, hrest]
    simp only [drawBit, Bool.or_eq_true, List.exists_mem_cons_iff, or_assoc]
    exact or_congr_right (or_congr_right (exists_congr fun q => and_congr_right fun hq => by rw [hsame q hq]))

/-! ### The pixels of a sprite (R221) -/

/-- The pixels of one row that a 1 bit of a sprite byte addresses. -/
def litInRow (vx : Byte) (r : Fin 32) (b : Byte) : List (Fin 32 × Fin 64) :=
  ((List.range 8).filter fun j => b.getLsbD (7 - j)).map fun j => (r, spriteCol vx j)

/-- The pixels that a 1 bit of the sprite addresses, in the order of the draw, from row number i on. -/
def litFrom (vx vy : Byte) : Nat → List Byte → List (Fin 32 × Fin 64)
  | _, [] => []
  | i, b :: bs => litInRow vx (spriteRow vy i) b ++ litFrom vx vy (i + 1) bs

/-- The pixels that a 1 bit of the sprite addresses. -/
abbrev litPixels (vx vy : Byte) (sprite : List Byte) : List (Fin 32 × Fin 64) := litFrom vx vy 0 sprite

theorem drawByte_eq_drawPixels (k : Canvas) (vx : Byte) (r : Fin 32) (b : Byte) :
    drawByte k vx r b = drawPixels k (litInRow vx r b) := by
  rw [drawPixels, litInRow, List.foldl_map, List.foldl_filter, drawByte]

theorem drawRows_eq_drawPixels (vx vy : Byte) (k : Canvas) (i : Nat) (bs : List Byte) :
    drawRows vx vy k i bs = drawPixels k (litFrom vx vy i bs) := by
  induction bs generalizing k i with
  | nil => rfl
  | cons b bs ih =>
    rw [drawRows, ih, drawByte_eq_drawPixels, litFrom]
    exact (List.foldl_append ..).symm

theorem spriteRow_eq_iff (vy : Byte) (i : Nat) (r : Fin 32) : spriteRow vy i = r ↔ (vy.toNat + i) % 32 = r.val :=
  Fin.ext_iff

theorem spriteCol_eq_iff (vx : Byte) (j : Nat) (c : Fin 64) : spriteCol vx j = c ↔ (vx.toNat + j) % 64 = c.val :=
  Fin.ext_iff

/-- Fewer than 33 rows never wrap onto one another. -/
theorem spriteRow_inj {vy : Byte} {i j : Nat} (h : spriteRow vy i = spriteRow vy j) (hi : i < j + 32)
    (hj : j < i + 32) : i = j := by
  have := (spriteRow_eq_iff vy i _).1 h
  simp only [spriteRow, Fin.ofNat] at this
  omega

theorem spriteCol_inj {vx : Byte} {i j : Nat} (h : spriteCol vx i = spriteCol vx j) (hi : i < 8) (hj : j < 8) :
    i = j := by
  have := (spriteCol_eq_iff vx i _).1 h
  simp only [spriteCol, Fin.ofNat] at this
  omega

theorem mem_litInRow {vx b : Byte} {r r' : Fin 32} {c : Fin 64} :
    (r', c) ∈ litInRow vx r b ↔ r = r' ∧ ∃ j < 8, spriteCol vx j = c ∧ b.getLsbD (7 - j) = true := by
  simp only [litInRow, List.mem_map, List.mem_filter, List.mem_range, Prod.mk.injEq]
  constructor
  · rintro ⟨j, ⟨hj, hb⟩, hr, hc⟩
    exact ⟨hr, j, hj, hc, hb⟩
  · rintro ⟨hr, j, hj, hc, hb⟩
    exact ⟨j, ⟨hj, hb⟩, hr, hc⟩

theorem mem_litFrom {vx vy : Byte} {i : Nat} {bs : List Byte} {r : Fin 32} {c : Fin 64} :
    (r, c) ∈ litFrom vx vy i bs ↔ ∃ m, ∃ h : m < bs.length, (r, c) ∈ litInRow vx (spriteRow vy (i + m)) bs[m] := by
  induction bs generalizing i with
  | nil => simp [litFrom]
  | cons b bs ih =>
    rw [litFrom, List.mem_append, ih]
    constructor
    · rintro (hb | ⟨m, hm, hbs⟩)
      · exact ⟨0, by simp, hb⟩
      · exact ⟨m + 1, by simpa using hm, by rwa [Nat.add_assoc, Nat.add_comm 1 m] at hbs⟩
    · rintro ⟨_ | m, hm, h⟩
      · exact .inl h
      · exact .inr ⟨m, by simpa using hm, by rwa [Nat.add_assoc, Nat.add_comm 1 m]⟩

theorem nodup_litInRow (vx : Byte) (r : Fin 32) (b : Byte) : (litInRow vx r b).Nodup := by
  refine (List.nodup_range.filter _).map_on fun i hi j hj h => ?_
  simp only [List.mem_filter, List.mem_range] at hi hj
  exact spriteCol_inj (congrArg Prod.snd h) hi.1 hj.1

theorem nodup_litFrom (vx vy : Byte) (i : Nat) {bs : List Byte} (h : bs.length ≤ 32) :
    (litFrom vx vy i bs).Nodup := by
  induction bs generalizing i with
  | nil => exact List.nodup_nil
  | cons b bs ih =>
    rw [List.length_cons] at h
    refine (nodup_litInRow _ _ _).append (ih _ (by omega)) ?_
    rintro ⟨r, c⟩ hb hbs
    obtain ⟨m, hm, hbs⟩ := mem_litFrom.1 hbs
    have hrow := (mem_litInRow.1 hb).1.trans (mem_litInRow.1 hbs).1.symm
    have := spriteRow_inj hrow (by omega) (by omega)
    omega

/-! ### The sprite at `I` (R221, R222) -/

/-- The sprite of a DRW: `n` bytes at `I`. -/
def spriteAt (s : State) (n : Nibble) : List Byte := readBytes s (baseAddr s) n.toNat

theorem length_spriteAt_le (s : State) (n : Nibble) : (spriteAt s n).length ≤ 32 := by
  have := n.isLt
  rw [spriteAt, length_readBytes]; omega

/-- A sprite depends on memory, `I`, the font parameter and the count of RESETs alone. -/
theorem spriteAt_congr {s t : State} (hm : t.mem = s.mem) (hi : t.i = s.i) (hp : t.params = s.params)
    (hr : t.resets = s.resets) (n : Nibble) : spriteAt t n = spriteAt s n := by
  refine List.ext_getElem (by simp only [spriteAt, length_readBytes]) fun k _ _ => ?_
  simp only [spriteAt, getElem_readBytes, baseAddr, hi, readByte_congr hm hp hr]

/-- The pixels of the sprite at `I` are those R221 covers. -/
theorem mem_litPixels_spriteAt {vx vy : Byte} {s : State} {n : Nibble} {r : Fin 32} {c : Fin 64} :
    (r, c) ∈ litPixels vx vy (spriteAt s n) ↔ Covers s vx vy n.toNat r c := by
  simp only [spriteAt, mem_litFrom, mem_litInRow, getElem_readBytes, length_readBytes, Nat.zero_add,
    spriteRow_eq_iff, spriteCol_eq_iff, exists_prop, ← exists_and_left, Covers, baseAddr, and_left_comm]

/-! ### The whole draw (R222, R223) -/

section drawSprite
variable {vx vy : Byte} {sprite : List Byte}

theorem pixel_drawSprite (h : sprite.length ≤ 32) (f : FrameBuf) (r : Fin 32) (c : Fin 64) :
    pixel (drawSprite f vx vy sprite).fb r c = (pixel f r c ^^ decide ((r, c) ∈ litPixels vx vy sprite)) := by
  rw [drawSprite, drawRows_eq_drawPixels, pixel_drawPixels (nodup_litFrom vx vy 0 h)]

theorem drawSprite_hit (h : sprite.length ≤ 32) (f : FrameBuf) :
    (drawSprite f vx vy sprite).hit = true ↔ ∃ r c, (r, c) ∈ litPixels vx vy sprite ∧ pixel f r c = true := by
  rw [drawSprite, drawRows_eq_drawPixels, drawPixels_hit (nodup_litFrom vx vy 0 h)]
  simp

/-- A second draw flips the same pixels back (R225). -/
theorem drawSprite_drawSprite (h : sprite.length ≤ 32) (f : FrameBuf) :
    (drawSprite (drawSprite f vx vy sprite).fb vx vy sprite).fb = f :=
  frameBuf_ext fun r c => by simp only [pixel_drawSprite h, Bool.xor_assoc, Bool.xor_self, Bool.xor_false]

/-- A second draw collides with the pixels the first one turned on (R225). -/
theorem drawSprite_drawSprite_hit (h : sprite.length ≤ 32) (f : FrameBuf) :
    (drawSprite (drawSprite f vx vy sprite).fb vx vy sprite).hit = true ↔
      ∃ r c, (r, c) ∈ litPixels vx vy sprite ∧ pixel f r c = false := by
  rw [drawSprite_hit h]
  refine exists_congr fun r => exists_congr fun c => and_congr_right fun hlit => ?_
  simp [pixel_drawSprite h, hlit]

end drawSprite

/-! ### DRW on either side of its check (R222, spec/20_memory.md R66) -/

section draw
variable {x y : Reg} {n : Nibble} {s : State}

/-- The state a draw leaves: `VF` is written last (R222). -/
def drawn (s : State) (k : Canvas) : State := setV { s with fb := k.fb, dirty := true } VF (flagByte k.hit)

theorem exec_drw_of_fits (h : n = 0 ∨ s.i.toNat + n.toNat ≤ 0x1000) :
    exec (.drw x y n) s = .next (drawn s (drawSprite s.fb (getV s x) (getV s y) (spriteAt s n))) := by
  have hok : memCheck (baseAddr s) n.toNat = true :=
    (memCheck_eq_true_iff _ _).2 (h.imp_left fun hn => by rw [hn]; rfl)
  rw [exec, execDrw, memRead, if_pos hok]
  rfl

theorem exec_drw_of_beyond (hpos : 0 < n.toNat) (h : 0x1000 < s.i.toNat + n.toNat) :
    exec (.drw x y n) s = .next (raise .memoryFault s) := by
  have hout : memRead s (baseAddr s) n.toNat = none := memRead_of_beyond hpos h
  rw [exec, execDrw, hout]

theorem flagByte_eq_one_iff (p : Bool) : flagByte p = 1 ↔ p = true := by
  cases p <;> decide

@[simp] theorem drawn_fb (s : State) (k : Canvas) : (drawn s k).fb = k.fb := rfl

theorem getV_drawn_VF (s : State) (k : Canvas) : getV (drawn s k) VF = flagByte k.hit := getV_setV_self

theorem getV_drawn_VF_eq_one_iff (s : State) (k : Canvas) : getV (drawn s k) VF = 1 ↔ k.hit = true := by
  rw [getV_drawn_VF, flagByte_eq_one_iff]

end draw

/-! ### Packed bytes (R224) -/

/-- Bit k of packed byte b, from the left, is pixel 8b + k. -/
theorem getMsbD_packedByte (f : FrameBuf) (r : Fin 32) (b k : Fin 8) :
    (packedByte f r b).getMsbD k = pixel f r ⟨8 * b.val + k.val, by omega⟩ := by
  have hidx : 56 - 8 * b.val + (8 - 1 - k.val) = 64 - 1 - (8 * b.val + k.val) := by omega
  simp only [packedByte, pixel, BitVec.getMsbD_eq_getLsbD, BitVec.getLsbD_extractLsb', hidx,
    decide_eq_true k.isLt, decide_eq_true (show 8 - 1 - k.val < 8 by omega),
    decide_eq_true (show 8 * b.val + k.val < 64 by omega), Bool.true_and]

theorem byte_ne_zero_iff (a : Byte) : a ≠ 0 ↔ ∃ k : Fin 8, a.getMsbD k = true := by
  rw [← not_iff_not]
  push Not
  constructor
  · rintro rfl k
    simp
  · intro h
    exact BitVec.eq_of_getMsbD_eq fun k hk => by simpa using h ⟨k, hk⟩

/-- The bytes of two displays share a 1 bit exactly when the displays share a pixel that is on. -/
theorem exists_packedByte_and_ne_zero_iff (f g : FrameBuf) :
    (∃ r b, packedByte f r b &&& packedByte g r b ≠ 0) ↔ ∃ r c, pixel g r c = true ∧ pixel f r c = true := by
  simp only [byte_ne_zero_iff, BitVec.getMsbD_and, getMsbD_packedByte, Bool.and_eq_true]
  refine exists_congr fun r => ⟨fun ⟨b, k, hf, hg⟩ => ⟨_, hg, hf⟩, fun ⟨c, hg, hf⟩ => ?_⟩
  have hc : c = ⟨8 * (c.val / 8) + c.val % 8, by omega⟩ := Fin.ext (Nat.div_add_mod ..).symm
  rw [hc] at hf hg
  exact ⟨⟨c.val / 8, by omega⟩, ⟨c.val % 8, by omega⟩, hf, hg⟩

/-- A sprite byte at column vx, as it lies on packed byte b of its row: the byte itself on b0, what spills on the
next byte (R224). -/
def packedMask (vx : Byte) (a : Byte) (b : Fin 8) : Byte :=
  if b.val = vx.toNat % 64 / 8 then a >>> (vx.toNat % 8)
  else if vx.toNat % 8 ≠ 0 ∧ b.val = (vx.toNat % 64 / 8 + 1) % 8 then a <<< (8 - vx.toNat % 8) else 0

/-- Bit j of the sprite is on byte b0 up to column 7 of it, and on the next byte of the row beyond. -/
theorem spriteCol_eq_packed_iff (vx : Byte) {j : Nat} (hj : j < 8) (b k : Fin 8) :
    spriteCol vx j = ⟨8 * b.val + k.val, by omega⟩ ↔
      b.val = vx.toNat % 64 / 8 ∧ k.val = vx.toNat % 8 + j ∨
      b.val = (vx.toNat % 64 / 8 + 1) % 8 ∧ k.val + 8 = vx.toNat % 8 + j := by
  have hb := b.isLt
  have hk := k.isLt
  rw [spriteCol_eq_iff]
  dsimp only
  omega

theorem getLsbD_eq_getMsbD (a : Byte) {j : Nat} (hj : j < 8) : a.getLsbD (7 - j) = a.getMsbD j := by
  simp [BitVec.getMsbD_eq_getLsbD, hj]

/-- The packed bytes of R224 hold the sprite's 1 bits at the columns of R221: j is the one sprite bit that can lie at
place k of byte b, k - vx mod 8 on b0 and 8 more on the next byte. -/
theorem getMsbD_packedMask_iff (vx a : Byte) (b k : Fin 8) :
    (packedMask vx a b).getMsbD k = true ↔
      ∃ j < 8, spriteCol vx j = ⟨8 * b.val + k.val, by omega⟩ ∧ a.getLsbD (7 - j) = true := by
  have hk := k.isLt
  have hbits : (∃ j < 8, spriteCol vx j = ⟨8 * b.val + k.val, by omega⟩ ∧ a.getLsbD (7 - j) = true) ↔
      ∃ j < 8, (b.val = vx.toNat % 64 / 8 ∧ k.val = vx.toNat % 8 + j ∨
        b.val = (vx.toNat % 64 / 8 + 1) % 8 ∧ k.val + 8 = vx.toNat % 8 + j) ∧ a.getMsbD j = true :=
    exists_congr fun j => and_congr_right fun hj => by
      rw [spriteCol_eq_packed_iff vx hj, getLsbD_eq_getMsbD a hj]
  rw [hbits, packedMask]
  split
  · next hb0 =>
    simp only [BitVec.getMsbD_ushiftRight, Bool.and_eq_true, Bool.not_eq_true', decide_eq_true_eq,
      decide_eq_false_iff_not]
    constructor
    · rintro ⟨-, hle, hbit⟩
      exact ⟨k.val - vx.toNat % 8, by omega, .inl ⟨hb0, by omega⟩, hbit⟩
    · rintro ⟨j, hj, hcol, hbit⟩
      have hj' : j = k.val - vx.toNat % 8 := by omega
      exact ⟨hk, by omega, hj' ▸ hbit⟩
  · next hb0 =>
    split
    · next hb1 =>
      rw [BitVec.getMsbD_shiftLeft]
      constructor
      · intro hbit
        have hlt := BitVec.lt_of_getMsbD hbit
        exact ⟨k.val + (8 - vx.toNat % 8), hlt, .inr ⟨hb1.2, by omega⟩, hbit⟩
      · rintro ⟨j, hj, hcol, hbit⟩
        have hj' : j = k.val + (8 - vx.toNat % 8) := by omega
        exact hj' ▸ hbit
    · next hb1 =>
      simp only [BitVec.ofNat_eq_ofNat, BitVec.getMsbD_zero, Bool.false_eq_true, false_iff]
      rintro ⟨j, hj, hcol, -⟩
      omega

/-- The masks of a whole draw: what it leaves on a blank display (R224). -/
def drawMask (vx vy : Byte) (sprite : List Byte) : Fin 32 → Fin 8 → Byte :=
  packedByte (drawSprite blank vx vy sprite).fb

section drawMask
variable {vx vy : Byte} {sprite : List Byte}

theorem pixel_drawSprite_blank (h : sprite.length ≤ 32) (r : Fin 32) (c : Fin 64) :
    pixel (drawSprite blank vx vy sprite).fb r c = decide ((r, c) ∈ litPixels vx vy sprite) := by
  rw [pixel_drawSprite h, pixel_blank, Bool.false_xor]

theorem getMsbD_drawMask_iff (h : sprite.length ≤ 32) (r : Fin 32) (b k : Fin 8) :
    (drawMask vx vy sprite r b).getMsbD k = true ↔ (r, ⟨8 * b.val + k.val, by omega⟩) ∈ litPixels vx vy sprite := by
  rw [drawMask, getMsbD_packedByte, pixel_drawSprite_blank h, decide_eq_true_iff]

/-- Up to 32 sprite rows lie on rows of their own, so the masks of a row are those of its one byte. -/
theorem drawMask_spriteRow (h : sprite.length ≤ 32) {i : Nat} (hi : i < sprite.length) (b : Fin 8) :
    drawMask vx vy sprite (spriteRow vy i) b = packedMask vx sprite[i] b := by
  refine BitVec.eq_of_getMsbD_eq fun k hk => Bool.eq_iff_iff.2 ?_
  refine (getMsbD_drawMask_iff h _ b ⟨k, hk⟩).trans (Iff.trans ?_ (getMsbD_packedMask_iff vx _ b ⟨k, hk⟩).symm)
  rw [mem_litFrom]
  constructor
  · rintro ⟨m, hm, hlit⟩
    obtain ⟨hrow, hbit⟩ := mem_litInRow.1 hlit
    rw [Nat.zero_add] at hrow
    obtain rfl : m = i := spriteRow_inj hrow (by omega) (by omega)
    exact hbit
  · intro hbit
    exact ⟨i, hi, mem_litInRow.2 ⟨by rw [Nat.zero_add], hbit⟩⟩

theorem drawMask_eq_zero (h : sprite.length ≤ 32) {r : Fin 32} (hr : ∀ i < sprite.length, spriteRow vy i ≠ r)
    (b : Fin 8) : drawMask vx vy sprite r b = 0 := by
  by_contra hne
  obtain ⟨k, hk⟩ := (byte_ne_zero_iff _).1 hne
  obtain ⟨m, hm, hlit⟩ := mem_litFrom.1 ((getMsbD_drawMask_iff h r b k).1 hk)
  rw [Nat.zero_add] at hlit
  exact hr m hm (mem_litInRow.1 hlit).1

theorem packedByte_drawSprite (h : sprite.length ≤ 32) (f : FrameBuf) (r : Fin 32) (b : Fin 8) :
    packedByte (drawSprite f vx vy sprite).fb r b = packedByte f r b ^^^ drawMask vx vy sprite r b := by
  refine BitVec.eq_of_getMsbD_eq fun k hk => ?_
  have hpix := fun g => getMsbD_packedByte g r b ⟨k, hk⟩
  rw [BitVec.getMsbD_xor, drawMask, hpix, hpix, hpix, pixel_drawSprite h, pixel_drawSprite_blank h]

theorem drawSprite_hit_iff_drawMask (h : sprite.length ≤ 32) (f : FrameBuf) :
    (drawSprite f vx vy sprite).hit = true ↔ ∃ r b, packedByte f r b &&& drawMask vx vy sprite r b ≠ 0 := by
  simp only [drawMask, exists_packedByte_and_ne_zero_iff, pixel_drawSprite_blank h, decide_eq_true_iff,
    drawSprite_hit h]

end drawMask

end Sys2Proof.Machine

/-! The statements about the display (spec/44_display.md), each from the lemmas above. -/

namespace Sys2Proof.Proofs

open Sys2Proof.Machine

/-- Settles O51. -/
theorem clearTurnsEveryPixelOff : Obligations.ClearTurnsEveryPixelOff :=
  fun _ => ⟨decode_encode .cls, _, rfl, pixel_blank, rfl, fun _ _ => getV_congr rfl _, readByte_congr rfl rfl rfl, rfl⟩

/-- Settles O52: the covered pixels are the listed ones of the sprite read at `I`. -/
theorem drawFlipsExactlyTheCoveredPixels : Obligations.DrawFlipsExactlyTheCoveredPixels := by
  refine fun x y n s => ⟨fun hfit => ⟨_, exec_drw_of_fits hfit, fun r c => ?_, ?_, ?_, rfl, ?_,
    readByte_congr rfl rfl rfl, rfl⟩, exec_drw_of_beyond⟩
  · rw [drawn_fb, pixel_drawSprite (length_spriteAt_le s n), ← mem_litPixels_spriteAt]
    exact ⟨fun hlit => by simp [hlit], fun hlit => by simp [hlit]⟩
  · rw [getV_drawn_VF]
    exact flagByte_cases _
  · simp only [getV_drawn_VF_eq_one_iff, drawSprite_hit (length_spriteAt_le s n), mem_litPixels_spriteAt]
  · exact fun r hr => getV_setV_of_ne _ (List.ne_of_not_mem_cons hr).symm _

/-- Settles O53: the second DRW reads the same sprite and the same place, so it is the second draw of it. -/
theorem drawingTwiceRestoresTheDisplay : Obligations.DrawingTwiceRestoresTheDisplay := by
  intro x y n s t u hfit ht hu hx hy
  rw [exec_drw_of_fits hfit] at ht
  cases ht
  obtain ⟨hfb, hi, hmem, hparams, hresets⟩ :
      u.fb = (drawSprite s.fb (getV s x) (getV s y) (spriteAt s n)).fb ∧
        u.i = s.i ∧ u.mem = s.mem ∧ u.params = s.params ∧ u.resets = s.resets := by
    rw [hu]
    exact ⟨rfl, rfl, rfl, rfl, rfl⟩
  have hlen := length_spriteAt_le s n
  have hsprite := spriteAt_congr hmem hi hparams hresets n
  refine ⟨_, exec_drw_of_fits (by rwa [hi]), ?_, ?_⟩
  · rw [hsprite, hfb, hx, hy]
    exact drawSprite_drawSprite hlen s.fb
  · rw [getV_drawn_VF_eq_one_iff, hsprite, hfb, hx, hy, drawSprite_drawSprite_hit hlen]
    simp only [mem_litPixels_spriteAt]

/-- Settles O54: the masks are the packed bytes of the draw on a blank display. -/
theorem packedBytesDrawAsThePixelsDo : Obligations.PackedBytesDrawAsThePixelsDo := by
  intro f vx vy sprite hlen
  have h : sprite.length ≤ 32 := hlen.trans (by decide)
  exact ⟨drawMask vx vy sprite, fun _ hi => drawMask_spriteRow h hi, fun _ hr => drawMask_eq_zero h hr,
    packedByte_drawSprite h f, drawSprite_hit_iff_drawMask h f⟩

end Sys2Proof.Proofs

/-! SUPPORT. The keypad tests, one Cycle of the key wait and runs of several, and runs of Ticks
(spec/45_keypad_timers.md). -/

namespace Sys2Proof.Machine

/-! ### Keys (R240, R243) -/

theorem keyDown_eq_true_iff (s : State) (k : Byte) :
    keyDown s k = true ↔ k.toNat ≤ 15 ∧ s.keys.getLsbD k.toNat = true := by
  rw [keyDown, Bool.and_eq_true, decide_eq_true_iff]

theorem ne_zero_of_getLsbD {rel : Word} {k : Nat} (hk : rel.getLsbD k = true) : rel ≠ 0 := by
  rintro rfl
  simp at hk

/-- A set bit with every bit below it clear is the least key. -/
theorem leastKey_eq {rel : Word} {k : Nat} (hk : rel.getLsbD k = true)
    (hmin : ∀ j < k, rel.getLsbD j = false) : leastKey rel = k := by
  obtain ⟨-, hset, hleast⟩ := leastKey_spec rel (ne_zero_of_getLsbD hk)
  obtain hlt | heq | hgt := Nat.lt_trichotomy (leastKey rel) k
  · simp [hmin _ hlt] at hset
  · exact heq
  · simp [hleast _ hgt] at hk

/-! ### One Cycle of the key wait (R128, R243) -/

section keyWait
variable {s : State} {x : Reg}

theorem exec_ldVxK_of_idle (hk : s.kwState = .idle) :
    exec (.ldVxK x) s = .next { s with kwPrev := s.keys, kwState := .armed } := by
  rw [exec, execLdVxK, hk]

theorem exec_ldVxK_of_no_release (hk : s.kwState = .armed) (hrel : s.kwPrev &&& ~~~ s.keys = 0) :
    exec (.ldVxK x) s = .next { s with kwPrev := s.keys } := by
  rw [exec, execLdVxK, hk]
  exact if_pos hrel

theorem exec_ldVxK_of_release {k : Nat} (hk : s.kwState = .armed)
    (hset : (s.kwPrev &&& ~~~ s.keys).getLsbD k = true)
    (hmin : ∀ j < k, (s.kwPrev &&& ~~~ s.keys).getLsbD j = false) :
    exec (.ldVxK x) s = .next { setV s x (BitVec.ofNat 8 k) with kwState := .idle } := by
  have hleast : leastKey (releasedKeys s) = k := leastKey_eq hset hmin
  rw [exec, execLdVxK, hk, ← hleast]
  exact if_neg (ne_zero_of_getLsbD hset)

/-- The Cycle that completes the wait, with all it leaves unchanged. -/
theorem exec_ldVxK_completes {k : Nat} (hk : s.kwState = .armed) (hlt : k < 16)
    (hset : (s.kwPrev &&& ~~~ s.keys).getLsbD k = true)
    (hmin : ∀ j < k, (s.kwPrev &&& ~~~ s.keys).getLsbD j = false) :
    ∃ t, exec (.ldVxK x) s = .next t ∧ (getV t x).toNat = k ∧ t.kwState = .idle ∧
      SameRegsBut [x] s t ∧ SameMemory s t ∧ t = { s with v := t.v, kwState := .idle } := by
  obtain ⟨hregs, hmem, -⟩ := setV_changesOnlyRegs (s := s) (x := x) (b := BitVec.ofNat 8 k)
  refine ⟨_, exec_ldVxK_of_release hk hset hmin, ?_, rfl, hregs, hmem, rfl⟩
  calc
    _ = (BitVec.ofNat 8 k).toNat := congrArg BitVec.toNat getV_setV_self
    _ = k := by rw [BitVec.toNat_ofNat]; omega

/-- A blocked machine's Cycle executes the wait in `IR` on the new sample. -/
theorem step_of_blocked {k : Word} {d : Byte} {es : List Event} (he : s.events = .cycle k d :: es)
    (hr : s.runState = .running) (hk : s.kwState = .armed) (hd : decode s.ir = some (.ldVxK x)) :
    step s = exec (.ldVxK x) (sampleInputs k d { s with events := es }) := by
  calc
    step s = cycle k d { s with events := es } := step_of_events he
    _ = decodeAndExecute (sampleInputs k d { s with events := es }) := cycle_of_armed k d hr hk
    _ = _ := decodeAndExecute_of_decode hd

/-- A blocked machine after a Cycle without a release: the sample is the one the next Cycle compares with. -/
def waited (k : Word) (d : Byte) (es : List Event) (s : State) : State :=
  { s with keys := k, rndIn := d, snapValid := false, kwPrev := k, events := es }

theorem step_waits {k : Word} {d : Byte} {es : List Event} (he : s.events = .cycle k d :: es)
    (hr : s.runState = .running) (hk : s.kwState = .armed) (hd : decode s.ir = some (.ldVxK x))
    (hrel : s.kwPrev &&& ~~~ k = 0) : step s = .next (waited k d es s) :=
  (step_of_blocked he hr hk hd).trans (exec_ldVxK_of_no_release hk hrel)

/-- The Cycle of a blocked machine that sees a release. -/
theorem step_completes {k : Word} {d : Byte} {es : List Event} {j : Nat} (he : s.events = .cycle k d :: es)
    (hr : s.runState = .running) (hk : s.kwState = .armed) (hd : decode s.ir = some (.ldVxK x)) (hlt : j < 16)
    (hset : (s.kwPrev &&& ~~~ k).getLsbD j = true) (hmin : ∀ m < j, (s.kwPrev &&& ~~~ k).getLsbD m = false) :
    ∃ u, step s = .next u ∧ (getV u x).toNat = j ∧ SameRegsBut [x] s u ∧ SameMemory s u ∧
      u = { s with
        v := u.v, keys := k, rndIn := d, snapValid := false, kwState := .idle, events := es } := by
  obtain ⟨u, hu, hx, -, hregs, hmem, hframe⟩ :=
    exec_ldVxK_completes (s := sampleInputs k d { s with events := es }) (x := x) hk hlt hset hmin
  exact ⟨u, (step_of_blocked he hr hk hd).trans hu, hx, hregs,
    fun a => (hmem a).trans (readByte_congr rfl rfl rfl a), hframe⟩

theorem noRelease_cons_iff (prev k : Word) (ks : List Word) :
    noRelease prev (k :: ks) = true ↔ prev &&& ~~~ k = 0 ∧ noRelease k ks = true := by
  rw [noRelease, Bool.and_eq_true, decide_eq_true_iff]

/-- A blocked machine over Cycles in which no held key is released: the wait stays armed, and `KW_PREV` is the last
sample. The run is said for any number of steps to follow, so that the completing Cycle can be put after it. -/
theorem run_blocked {samples : List (Word × Byte)} {es : List Event}
    (he : s.events = samples.map (fun p => Event.cycle p.1 p.2) ++ es)
    (hr : s.runState = .running) (hk : s.kwState = .armed) (hd : decode s.ir = some (.ldVxK x))
    (hrel : noRelease s.kwPrev (samples.map Prod.fst) = true) :
    ∃ t, (∀ n, Host.Core.run core (samples.length + n) s = Host.Core.run core n t) ∧
      t = { s with
        keys := t.keys, rndIn := t.rndIn, snapValid := t.snapValid,
        kwPrev := lastSample s.kwPrev (samples.map Prod.fst), events := es } := by
  induction samples generalizing s with
  | nil =>
    obtain rfl : s.events = es := he
    exact ⟨s, fun n => by rw [List.length_nil, Nat.zero_add], rfl⟩
  | cons p samples ih =>
    obtain ⟨hnone, hrest⟩ := (noRelease_cons_iff _ _ _).1 hrel
    obtain ⟨t, hrun, ht⟩ := ih (s := waited p.1 p.2 _ s) rfl hr hk hd hrest
    refine ⟨t, fun n => ?_, ht⟩
    rw [List.length_cons, Nat.add_right_comm]
    exact (run_succ_of_next (step_waits he hr hk hd hnone) _).trans (hrun n)

end keyWait

/-! ### Runs of Ticks (R130, R247) -/

/-- What `n` Ticks that do not stop the run make of `s`: the timers `n` lower, but never below 0, the frame
published, and the events used up. -/
structure AfterTicks (n : Nat) (s t : State) : Prop where
  dt : t.dt.toNat = s.dt.toNat - n
  st : t.st.toNat = s.st.toNat - n
  frame : t = { s with
    dt := t.dt, st := t.st, snap := t.snap, snapValid := t.snapValid, dirty := t.dirty, events := t.events }

namespace AfterTicks
variable {s t u : State}

theorem runState_eq {n : Nat} (h : AfterTicks n s t) : t.runState = s.runState := by
  rw [h.frame]

theorem trans {m n : Nat} (h : AfterTicks m s t) (h' : AfterTicks n t u) : AfterTicks (m + n) s u where
  dt := by rw [h'.dt, h.dt, Nat.sub_sub]
  st := by rw [h'.st, h.st, Nat.sub_sub]
  frame := by
    have hu := h'.frame
    rw [h.frame] at hu
    exact hu

end AfterTicks

@[simp] theorem tick_events (b : Bool) (s : State) : (tick b s).events = s.events := by
  by_cases hr : s.runState = .running
  · rw [tick_of_running b hr]
  · rw [tick_of_not_running b hr]

theorem afterTicks_tick {s : State} {es : List Event} (hr : s.runState = .running) :
    AfterTicks 1 s (tick false { s with events := es }) := by
  have htick := tick_of_running false (s := { s with events := es }) hr
  rw [htick, ← hr]
  exact ⟨toNat_countDown s.dt, toNat_countDown s.st, rfl⟩

/-- By induction on the Ticks: each leaves the machine running. -/
theorem run_ticks (n : Nat) {s : State} {es : List Event} (he : s.events = List.replicate n (.tick false) ++ es)
    (hr : s.runState = .running) :
    ∃ t, Host.Core.run core n s = .next t ∧ t.events = es ∧ AfterTicks n s t := by
  induction n generalizing s with
  | zero => exact ⟨s, run_zero s, he, rfl, rfl, rfl⟩
  | succ n ih =>
    have hone := afterTicks_tick (es := List.replicate n (.tick false) ++ es) hr
    obtain ⟨t, hrun, hes, ht⟩ := ih (tick_events _ _) (hone.runState_eq.trans hr)
    refine ⟨t, (run_succ_of_next (step_of_events he) n).trans hrun, hes, ?_⟩
    rw [Nat.add_comm]
    exact hone.trans ht

end Sys2Proof.Machine

/-! The statements about the keypad and the timers (spec/45_keypad_timers.md), each from the lemmas above. -/

namespace Sys2Proof.Proofs

open Sys2Proof.Machine

/-- Settles O20: the frame of a run of Ticks holds no register and no byte of memory. -/
theorem timersReachZeroAndStayThere : Obligations.TimersReachZeroAndStayThere := by
  intro n s es he hr
  obtain ⟨t, hrun, hes, ht⟩ := run_ticks n he hr
  have hframe := ht.frame
  refine ⟨t, hrun, ht.dt, ht.st, ht.runState_eq.trans hr, fun _ _ => getV_congr ?_ _,
    readByte_congr ?_ ?_ ?_, ?_, hes, hframe⟩ <;> rw [hframe]

/-- Settles O56: SKNP skips on the negation of what SKP tests. -/
theorem keySkipsTestTheSampledKey : Obligations.KeySkipsTestTheSampledKey := by
  intro x s down hdown
  have hkey : keyDown s (getV s x) = true ↔ down = true := (keyDown_eq_true_iff s _).trans hdown.symm
  have hnot : (!keyDown s (getV s x)) = true ↔ ¬ down = true := by
    rw [← hkey, Bool.not_eq_true', Bool.not_eq_true]
  obtain ⟨t, ht, hpc, hframe⟩ := exec_of_skipIf (i := .sknp x) rfl hnot
  exact ⟨exec_of_skipIf rfl hkey, t, ht, hpc.trans (ite_not _ _ _), hframe⟩

/-- Settles O57. -/
theorem keyWaitArmsWaitsAndCompletes : Obligations.KeyWaitArmsWaitsAndCompletes :=
  fun _ _ => ⟨exec_ldVxK_of_idle, exec_ldVxK_of_no_release, fun _ => exec_ldVxK_completes⟩

/-- Settles O58: the state the polls end in is blocked still, and its `KW_PREV` is the sample before the last. -/
theorem keyWaitCompletesOnTheFirstRelease : Obligations.KeyWaitCompletesOnTheFirstRelease := by
  intro x s samples last es k hr hk hd he hrel hlt hset hmin
  rw [List.map_append, List.append_assoc] at he
  obtain ⟨t, hrun, ht⟩ := run_blocked he hr hk hd hrel
  obtain ⟨hev, hr', hk', hd', hprev⟩ : t.events = .cycle last.1 last.2 :: es ∧ t.runState = .running ∧
      t.kwState = .armed ∧ decode t.ir = some (.ldVxK x) ∧
      t.kwPrev = lastSample s.kwPrev (samples.map Prod.fst) := by
    rw [ht]
    exact ⟨rfl, hr, hk, hd, rfl⟩
  obtain ⟨hv, hpc, hmem, hparams, hresets⟩ :
      t.v = s.v ∧ t.pc = s.pc ∧ t.mem = s.mem ∧ t.params = s.params ∧ t.resets = s.resets := by
    rw [ht]
    exact ⟨rfl, rfl, rfl, rfl, rfl⟩
  rw [← hprev] at hset hmin
  obtain ⟨u, hstep, hx, hregs, hbytes, hu⟩ := step_completes hev hr' hk' hd' hlt hset hmin
  have hone : Host.Core.run core (samples.length + 1) s = .next u := by
    rw [hrun, run_succ_of_next hstep, run_zero]
  refine ⟨t, u, hrun 0, hk', fun r _ => getV_congr hv r, hpc, hone, ?_, hx,
    fun r hne => (hregs r hne).trans (getV_congr hv r),
    fun a => (hbytes a).trans (readByte_congr hmem hparams hresets a), ?_, ?_, ?_⟩ <;> rw [hu]
  · exact hpc
  · exact hr'

/-- Settles O59. -/
theorem timerTransfersCopyTheTimers : Obligations.TimerTransfersCopyTheTimers :=
  fun _ _ => ⟨exec_of_setV rfl,
    ⟨_, rfl, rfl, fun _ _ => getV_congr rfl _, readByte_congr rfl rfl rfl, rfl⟩,
    ⟨_, rfl, rfl, fun _ _ => getV_congr rfl _, readByte_congr rfl rfl rfl, rfl⟩⟩

end Sys2Proof.Proofs

/-! SUPPORT. An instruction whose check fails, and the next state of every event (spec/60_exceptions.md R260, R263 to
R266). -/

namespace Sys2Proof.Machine

/-- An instruction whose one check fails does nothing but enter its fault. -/
theorem exec_of_faultOf {i : Instr} {s : State} {k : ErrKind} (h : faultOf i s = some k) :
    exec i s = .next (raise k s) := by
  cases i with
  | call nnn =>
    obtain ⟨hfull, ⟨⟩⟩ := Option.ite_none_right_eq_some.1 h
    exact exec_call_of_full nnn hfull
  | ret =>
    obtain ⟨hempty, ⟨⟩⟩ := Option.ite_none_right_eq_some.1 h
    exact exec_ret_of_empty hempty
  | drw x y n =>
    obtain ⟨⟨hpos, hout⟩, ⟨⟩⟩ := Option.ite_none_right_eq_some.1 h
    exact exec_drw_of_beyond hpos hout
  | ldB x =>
    obtain ⟨hout, ⟨⟩⟩ := Option.ite_none_right_eq_some.1 h
    exact exec_ldB_of_beyond (by omega)
  | ldMemVx x =>
    obtain ⟨hout, ⟨⟩⟩ := Option.ite_none_right_eq_some.1 h
    exact exec_ldMemVx_of_beyond hout
  | ldVxMem x =>
    obtain ⟨hout, ⟨⟩⟩ := Option.ite_none_right_eq_some.1 h
    exact exec_ldVxMem_of_beyond hout
  | _ => contradiction

theorem exists_decodeAndExecute_eq_next (s : State) : ∃ t, decodeAndExecute s = .next t := by
  obtain ⟨-, h⟩ | ⟨i, -, h⟩ := decodeAndExecute_cases s
  · exact ⟨_, h⟩
  · obtain ⟨t, ht, -⟩ := exec_effect i s
    exact ⟨t, h.trans ht⟩

theorem exists_cycle_eq_next (k : Word) (d : Byte) (s : State) : ∃ t, cycle k d s = .next t := by
  obtain ⟨-, h⟩ | ⟨-, -, h⟩ | ⟨-, -, -, h⟩ | ⟨-, -, -, h⟩ := cycle_cases k d s <;> rw [h]
  · exact ⟨_, rfl⟩
  · exact exists_decodeAndExecute_eq_next _
  · exact exists_decodeAndExecute_eq_next _
  · exact ⟨_, rfl⟩

theorem exists_serve_eq_next (e : Event) (s : State) : ∃ t, serve e s = .next t := by
  cases e with
  | cycle k d => exact exists_cycle_eq_next k d s
  | reset | load bytes | run | tick b => exact ⟨_, rfl⟩

end Sys2Proof.Machine

/-! The statements about exceptions (spec/60_exceptions.md), each from the lemmas above. -/

namespace Sys2Proof.Proofs

open Sys2Proof.Machine

/-- Settles O24: of the ways of `Effect` only the fault touches the status, and a check that passes rules it out. -/
theorem instructionFaultsExactlyWhenItsCheckFails : Obligations.InstructionFaultsExactlyWhenItsCheckFails := by
  intro i s
  refine ⟨fun _ => exec_of_faultOf, fun hpass => ?_⟩
  obtain ⟨t, ht, heffect⟩ := exec_effect i s
  exact ⟨t, ht, heffect.status_eq hpass⟩

/-- Settles O25: an event is taken whatever the state, and serving it answers a next state. -/
theorem everyStepAnswersANextState : Obligations.EveryStepAnswersANextState :=
  fun s => exists_serve_eq_next (takeEvent s).1 (takeEvent s).2

/-- Settles O17: `Halted` is neither `Idle` nor `Running`, so it accepts no event but RESET. -/
theorem haltedMachineChangesOnlyOnReset : Obligations.HaltedMachineChangesOnlyOnReset := by
  intro s e es he hr hne
  rw [step_of_events he]
  exact serve_of_not_idle_of_not_running (by simp [hr]) (by simp [hr]) hne

end Sys2Proof.Proofs
